-- ==== Sys2Proof/Word.lean ====
section
/-! DEFINITION. The machine's words (00_scope.md R12, 10_state.md R31): bytes, 16-bit words, 24-bit data
addresses, register numbers and bit numbers. -/

namespace Sys2Proof

/-- A register or memory byte (R12, R31). -/
abbrev Byte := BitVec 8

/-- A flash word, a register pair or SP (R12, R13, R43). -/
abbrev Word := BitVec 16

/-- A data-space address (R80). -/
abbrev DataAddr := BitVec 24

/-- The number of a general register, r0 to r31 (R31). -/
abbrev Reg := Fin 32

/-- The number of a bit of a byte (R40, R140). -/
abbrev Bit := Fin 8

end Sys2Proof
end

