-- ==== Sys2Proof/Syntax.lean ====
section
/-! DEFINITION. The instructions (30_encoding.md R142): one constructor per row of the opcode table, in its
order, and the names of the forms the parameter `cycles` is keyed by (00_scope.md R10, 70_reset_and_hazards.md R512). -/

namespace Sys2Proof

/-- The instructions of R142. `d` is a destination and `r` a source register, `k` a constant, an address
or a signed offset in words, `q` a displacement, `a` an I/O address, `b` a bit number, `s` an SREG bit number. -/
inductive Instr where
  /-- Row 1: NOP (R390). -/
  | nop
  /-- Row 2: MOVW Rd+1:Rd, Rr+1:Rr (R271). -/
  | movw (d r : Reg)
  /-- Row 3: MULS Rd, Rr (R252). -/
  | muls (d r : Reg)
  /-- Row 4: MULSU Rd, Rr (R253). -/
  | mulsu (d r : Reg)
  /-- Row 5: FMUL Rd, Rr (R254). -/
  | fmul (d r : Reg)
  /-- Row 6: FMULS Rd, Rr (R255). -/
  | fmuls (d r : Reg)
  /-- Row 7: FMULSU Rd, Rr (R256). -/
  | fmulsu (d r : Reg)
  /-- Row 8: CPC Rd, Rr (R242). -/
  | cpc (d r : Reg)
  /-- Row 9: SBC Rd, Rr (R236). -/
  | sbc (d r : Reg)
  /-- Row 10: ADD Rd, Rr (R233). -/
  | add (d r : Reg)
  /-- Row 11: CPSE Rd, Rr (R381). -/
  | cpse (d r : Reg)
  /-- Row 12: CP Rd, Rr (R241). -/
  | cp (d r : Reg)
  /-- Row 13: SUB Rd, Rr (R235). -/
  | sub (d r : Reg)
  /-- Row 14: ADC Rd, Rr (R234). -/
  | adc (d r : Reg)
  /-- Row 15: AND Rd, Rr (R237). -/
  | and (d r : Reg)
  /-- Row 16: EOR Rd, Rr (R239). -/
  | eor (d r : Reg)
  /-- Row 17: OR Rd, Rr (R238). -/
  | or (d r : Reg)
  /-- Row 18: MOV Rd, Rr (R240). -/
  | mov (d r : Reg)
  /-- Row 19: CPI Rd, K (R261). -/
  | cpi (d : Reg) (k : Byte)
  /-- Row 20: SBCI Rd, K (R263). -/
  | sbci (d : Reg) (k : Byte)
  /-- Row 21: SUBI Rd, K (R262). -/
  | subi (d : Reg) (k : Byte)
  /-- Row 22: ORI Rd, K (R265). -/
  | ori (d : Reg) (k : Byte)
  /-- Row 23: ANDI Rd, K (R264). -/
  | andi (d : Reg) (k : Byte)
  /-- Row 24: LD Rd, Z (R292). -/
  | ldZ (d : Reg)
  /-- Row 25: LD Rd, Y (R288). -/
  | ldY (d : Reg)
  /-- Row 26: ST Z, Rr (R303). -/
  | stZ (r : Reg)
  /-- Row 27: ST Y, Rr (R299). -/
  | stY (r : Reg)
  /-- Row 28: LDD Rd, Z+q (R295). -/
  | lddZ (d : Reg) (q : BitVec 6)
  /-- Row 29: LDD Rd, Y+q (R291). -/
  | lddY (d : Reg) (q : BitVec 6)
  /-- Row 30: STD Z+q, Rr (R306). -/
  | stdZ (q : BitVec 6) (r : Reg)
  /-- Row 31: STD Y+q, Rr (R302). -/
  | stdY (q : BitVec 6) (r : Reg)
  /-- Row 32: LDS Rd, k (R283). -/
  | lds (d : Reg) (k : Word)
  /-- Row 33: LD Rd, Z+ (R293). -/
  | ldZInc (d : Reg)
  /-- Row 34: LD Rd, -Z (R294). -/
  | ldZDec (d : Reg)
  /-- Row 35: LPM Rd, Z (R308). -/
  | lpmZ (d : Reg)
  /-- Row 36: LPM Rd, Z+ (R309). -/
  | lpmZInc (d : Reg)
  /-- Row 37: ELPM Rd, Z (R311). -/
  | elpmZ (d : Reg)
  /-- Row 38: ELPM Rd, Z+ (R312). -/
  | elpmZInc (d : Reg)
  /-- Row 39: LD Rd, Y+ (R289). -/
  | ldYInc (d : Reg)
  /-- Row 40: LD Rd, -Y (R290). -/
  | ldYDec (d : Reg)
  /-- Row 41: LD Rd, X (R285). -/
  | ldX (d : Reg)
  /-- Row 42: LD Rd, X+ (R286). -/
  | ldXInc (d : Reg)
  /-- Row 43: LD Rd, -X (R287). -/
  | ldXDec (d : Reg)
  /-- Row 44: POP Rd (R372). -/
  | pop (d : Reg)
  /-- Row 45: STS k, Rr (R284). -/
  | sts (k : Word) (r : Reg)
  /-- Row 46: ST Z+, Rr (R304). -/
  | stZInc (r : Reg)
  /-- Row 47: ST -Z, Rr (R305). -/
  | stZDec (r : Reg)
  /-- Row 48: XCH Z, Rd (R313). -/
  | xch (d : Reg)
  /-- Row 49: LAS Z, Rd (R314). -/
  | las (d : Reg)
  /-- Row 50: LAC Z, Rd (R315). -/
  | lac (d : Reg)
  /-- Row 51: LAT Z, Rd (R316). -/
  | lat (d : Reg)
  /-- Row 52: ST Y+, Rr (R300). -/
  | stYInc (r : Reg)
  /-- Row 53: ST -Y, Rr (R301). -/
  | stYDec (r : Reg)
  /-- Row 54: ST X, Rr (R296). -/
  | stX (r : Reg)
  /-- Row 55: ST X+, Rr (R297). -/
  | stXInc (r : Reg)
  /-- Row 56: ST -X, Rr (R298). -/
  | stXDec (r : Reg)
  /-- Row 57: PUSH Rr (R371). -/
  | push (r : Reg)
  /-- Row 58: COM Rd (R211). -/
  | com (d : Reg)
  /-- Row 59: NEG Rd (R212). -/
  | neg (d : Reg)
  /-- Row 60: SWAP Rd (R213). -/
  | swap (d : Reg)
  /-- Row 61: INC Rd (R214). -/
  | inc (d : Reg)
  /-- Row 62: ASR Rd (R216). -/
  | asr (d : Reg)
  /-- Row 63: LSR Rd (R217). -/
  | lsr (d : Reg)
  /-- Row 64: ROR Rd (R218). -/
  | ror (d : Reg)
  /-- Row 65: BSET s (R201). -/
  | bset (s : Bit)
  /-- Row 66: BCLR s (R202). -/
  | bclr (s : Bit)
  /-- Row 67: RET (R349). -/
  | ret
  /-- Row 68: RETI (R350). -/
  | reti
  /-- Row 69: SLEEP (R391). -/
  | sleep
  /-- Row 70: BREAK (R394). -/
  | brk
  /-- Row 71: WDR (R392). -/
  | wdr
  /-- Row 72: LPM (r0, Z) (R307). -/
  | lpmR0
  /-- Row 73: ELPM (r0, Z) (R310). -/
  | elpmR0
  /-- Row 74: SPM (R397). -/
  | spm
  /-- Row 75: SPM Z+ (R398). -/
  | spmZInc
  /-- Row 76: IJMP (R343). -/
  | ijmp
  /-- Row 77: EIJMP (R344). -/
  | eijmp
  /-- Row 78: ICALL (R347). -/
  | icall
  /-- Row 79: EICALL (R348). -/
  | eicall
  /-- Row 80: DEC Rd (R215). -/
  | dec (d : Reg)
  /-- Row 81: DES K (R396). -/
  | des (k : BitVec 4)
  /-- Row 82: JMP k (R341). -/
  | jmp (k : BitVec 22)
  /-- Row 83: CALL k (R345). -/
  | call (k : BitVec 22)
  /-- Row 84: ADIW Rd+1:Rd, K (R272). -/
  | adiw (d : Reg) (k : BitVec 6)
  /-- Row 85: SBIW Rd+1:Rd, K (R273). -/
  | sbiw (d : Reg) (k : BitVec 6)
  /-- Row 86: CBI A, b (R334). -/
  | cbi (a : BitVec 5) (b : Bit)
  /-- Row 87: SBIC A, b (R384). -/
  | sbic (a : BitVec 5) (b : Bit)
  /-- Row 88: SBI A, b (R333). -/
  | sbi (a : BitVec 5) (b : Bit)
  /-- Row 89: SBIS A, b (R385). -/
  | sbis (a : BitVec 5) (b : Bit)
  /-- Row 90: MUL Rd, Rr (R251). -/
  | mul (d r : Reg)
  /-- Row 91: IN Rd, A (R331). -/
  | inp (d : Reg) (a : BitVec 6)
  /-- Row 92: OUT A, Rr (R332). -/
  | outp (a : BitVec 6) (r : Reg)
  /-- Row 93: RJMP k (R342). -/
  | rjmp (k : BitVec 12)
  /-- Row 94: RCALL k (R346). -/
  | rcall (k : BitVec 12)
  /-- Row 95: LDI Rd, K (R266). -/
  | ldi (d : Reg) (k : Byte)
  /-- Row 96: BRBS s, k (R351). -/
  | brbs (s : Bit) (k : BitVec 7)
  /-- Row 97: BRBC s, k (R352). -/
  | brbc (s : Bit) (k : BitVec 7)
  /-- Row 98: BLD Rd, b (R204). -/
  | bld (d : Reg) (b : Bit)
  /-- Row 99: BST Rd, b (R203). -/
  | bst (d : Reg) (b : Bit)
  /-- Row 100: SBRC Rr, b (R382). -/
  | sbrc (r : Reg) (b : Bit)
  /-- Row 101: SBRS Rr, b (R383). -/
  | sbrs (r : Reg) (b : Bit)
  deriving DecidableEq, Repr

/-- The instruction forms of the parameter `cycles` (R10, R530): one per row of R142, and the unknown opcode (R399). -/
inductive Form where
  | nop | movw | muls | mulsu | fmul | fmuls | fmulsu | cpc | sbc | add | cpse | cp | sub | adc | and | eor
  | or | mov | cpi | sbci | subi | ori | andi | ldZ | ldY | stZ | stY | lddZ | lddY | stdZ | stdY | lds
  | ldZInc | ldZDec | lpmZ | lpmZInc | elpmZ | elpmZInc | ldYInc | ldYDec | ldX | ldXInc | ldXDec | pop | sts
  | stZInc | stZDec | xch | las | lac | lat | stYInc | stYDec | stX | stXInc | stXDec | push | com | neg
  | swap | inc | asr | lsr | ror | bset | bclr | ret | reti | sleep | brk | wdr | lpmR0 | elpmR0 | spm
  | spmZInc | ijmp | eijmp | icall | eicall | dec | des | jmp | call | adiw | sbiw | cbi | sbic | sbi | sbis
  | mul | inp | outp | rjmp | rcall | ldi | brbs | brbc | bld | bst | sbrc | sbrs | unknown
  deriving DecidableEq, Repr

end Sys2Proof
end

