-- ==== Sys2Proof/WellFormed.lean ====
section
/-! DEFINITION. Which instructions have an encoding of their own: the operand restrictions of 10_state.md R33 and of the
formats of 30_encoding.md. Operands whose type is already exact need no check. -/

namespace Sys2Proof

/-- r16 to r31 (formats F3 and F5, R125, R127). -/
def isUpper (d : Reg) : Bool := decide (16 ≤ d.val)

/-- r16 to r23 (format F4, R126). -/
def isMid (d : Reg) : Bool := decide (16 ≤ d.val) && decide (d.val < 24)

/-- The low register of an even/odd pair (format F2, R124). -/
def isPair (d : Reg) : Bool := d.val % 2 == 0

/-- r24, r26, r28 or r30 (format F13, R135). -/
def isWordPair (d : Reg) : Bool := isPair d && decide (24 ≤ d.val)

/-- The well-formed instructions. LDD and STD with displacement 0 are refused: their word is the LD or ST row's, which is
matched first (R121, R291, R295, R302, R306). -/
def Instr.wellFormed : Instr → Bool
  | .movw d r => isPair d && isPair r
  | .muls d r => isUpper d && isUpper r
  | .mulsu d r | .fmul d r | .fmuls d r | .fmulsu d r => isMid d && isMid r
  | .cpi d _ | .sbci d _ | .subi d _ | .ori d _ | .andi d _ | .ldi d _ => isUpper d
  | .adiw d _ | .sbiw d _ => isWordPair d
  | .lddZ _ q | .lddY _ q => q != 0
  | .stdZ q _ | .stdY q _ => q != 0
  | .nop | .cpc _ _ | .sbc _ _ | .add _ _ | .cpse _ _ | .cp _ _ | .sub _ _ | .adc _ _ | .and _ _ | .eor _ _ | .or _ _
  | .mov _ _ | .ldZ _ | .ldY _ | .stZ _ | .stY _ | .lds _ _ | .ldZInc _ | .ldZDec _ | .lpmZ _ | .lpmZInc _ | .elpmZ _
  | .elpmZInc _ | .ldYInc _ | .ldYDec _ | .ldX _ | .ldXInc _ | .ldXDec _ | .pop _ | .sts _ _ | .stZInc _ | .stZDec _
  | .xch _ | .las _ | .lac _ | .lat _ | .stYInc _ | .stYDec _ | .stX _ | .stXInc _ | .stXDec _ | .push _ | .com _
  | .neg _ | .swap _ | .inc _ | .asr _ | .lsr _ | .ror _ | .bset _ | .bclr _ | .ret | .reti | .sleep | .brk | .wdr
  | .lpmR0 | .elpmR0 | .spm | .spmZInc | .ijmp | .eijmp | .icall | .eicall | .dec _ | .des _ | .jmp _ | .call _
  | .cbi _ _ | .sbic _ _ | .sbi _ _ | .sbis _ _ | .mul _ _ | .inp _ _ | .outp _ _ | .rjmp _ | .rcall _ | .brbs _ _
  | .brbc _ _ | .bld _ _ | .bst _ _ | .sbrc _ _ | .sbrs _ _ => true

end Sys2Proof
end

