-- ==== Sys2Proof/Decode.lean ====
section
/-! DEFINITION. Decoding and encoding (30_encoding.md). The decoder is the masked match of R121 over the rows of R142; the
encoder writes the formats F1 to F18 (R123 to R140). A word that matches no row is the unknown opcode of R143. -/

namespace Sys2Proof

/-- Why bytes are no instruction: too few of them, or a first word that matches no row (R143). -/
inductive DecodeError where
  | truncated
  | unknownOpcode (op : Word)
  deriving DecidableEq, Repr

/-! ## Bytes and words (R12, R93) -/

/-- `hi:lo`, the 16-bit value of a register pair (R12, R13). -/
def pairOf (hi lo : Byte) : Word := hi ++ lo

/-- Bits 7:0 of a word. -/
def lowByte (w : Word) : Byte := w.extractLsb' 0 8

/-- Bits 15:8 of a word. -/
def highByte (w : Word) : Byte := w.extractLsb' 8 8

/-! ## Operand fields (R141) -/

/-- Bits `lo + len - 1 : lo` of a word, as a number. -/
def field (op : Word) (lo len : Nat) : Nat := (op.toNat >>> lo) % 2 ^ len

/-- A register number, from a number below 32. -/
def regOf (n : Nat) : Reg := Fin.ofNat 32 n

/-- Rd5: `op[8:4]`. -/
def fieldD5 (op : Word) : Reg := regOf (field op 4 5)

/-- Rr5: `op[9]:op[3:0]`. -/
def fieldR5 (op : Word) : Reg := regOf (field op 9 1 * 16 + field op 0 4)

/-- Rd4: `16 + op[7:4]`. -/
def fieldD4 (op : Word) : Reg := regOf (16 + field op 4 4)

/-- Rr4: `16 + op[3:0]`. -/
def fieldR4 (op : Word) : Reg := regOf (16 + field op 0 4)

/-- Rd3: `16 + op[6:4]`. -/
def fieldD3 (op : Word) : Reg := regOf (16 + field op 4 3)

/-- Rr3: `16 + op[2:0]`. -/
def fieldR3 (op : Word) : Reg := regOf (16 + field op 0 3)

/-- Rp4, destination: `2*op[7:4]`. -/
def fieldPairHi (op : Word) : Reg := regOf (2 * field op 4 4)

/-- Rp4, source: `2*op[3:0]`. -/
def fieldPairLo (op : Word) : Reg := regOf (2 * field op 0 4)

/-- Rp2: `24 + 2*op[5:4]`. -/
def fieldPairImm (op : Word) : Reg := regOf (24 + 2 * field op 4 2)

/-- K8: `op[11:8]:op[3:0]`. -/
def fieldK8 (op : Word) : Byte := op.extractLsb' 8 4 ++ op.extractLsb' 0 4

/-- K6: `op[7:6]:op[3:0]`. -/
def fieldK6 (op : Word) : BitVec 6 := op.extractLsb' 6 2 ++ op.extractLsb' 0 4

/-- K4: `op[7:4]`. -/
def fieldK4 (op : Word) : BitVec 4 := op.extractLsb' 4 4

/-- q6: `op[13]:op[11:10]:op[2:0]`. -/
def fieldQ (op : Word) : BitVec 6 := op.extractLsb' 13 1 ++ (op.extractLsb' 10 2 ++ op.extractLsb' 0 3)

/-- k22: `op[8:4]:op[0]:word2`. -/
def fieldK22 (op w2 : Word) : BitVec 22 := (op.extractLsb' 4 5 ++ op.extractLsb' 0 1) ++ w2

/-- k12: `op[11:0]`. -/
def fieldK12 (op : Word) : BitVec 12 := op.extractLsb' 0 12

/-- k7: `op[9:3]`. -/
def fieldK7 (op : Word) : BitVec 7 := op.extractLsb' 3 7

/-- A6: `op[10:9]:op[3:0]`. -/
def fieldA6 (op : Word) : BitVec 6 := op.extractLsb' 9 2 ++ op.extractLsb' 0 4

/-- A5: `op[7:3]`. -/
def fieldA5 (op : Word) : BitVec 5 := op.extractLsb' 3 5

/-- b3: `op[2:0]`. -/
def fieldB (op : Word) : Bit := Fin.ofNat 8 (field op 0 3)

/-- s3 of BSET and BCLR: `op[6:4]`. -/
def fieldS (op : Word) : Bit := Fin.ofNat 8 (field op 4 3)

/-! ## The table (R142) -/

/-- A row of the opcode table: the mask, the match value, and the instruction read from the first and second word. -/
structure Row where
  mask : Word
  pat : Word
  build : Word → Word → Instr

/-- Whether a first word matches a row (R121). -/
def Row.accepts (r : Row) (op : Word) : Bool := op &&& r.mask == r.pat

/-- Rows 1 to 20 of R142. -/
def rows1 : List Row :=
  [ ⟨0xFFFF, 0x0000, fun _ _ => .nop⟩,
    ⟨0xFF00, 0x0100, fun op _ => .movw (fieldPairHi op) (fieldPairLo op)⟩,
    ⟨0xFF00, 0x0200, fun op _ => .muls (fieldD4 op) (fieldR4 op)⟩,
    ⟨0xFF88, 0x0300, fun op _ => .mulsu (fieldD3 op) (fieldR3 op)⟩,
    ⟨0xFF88, 0x0308, fun op _ => .fmul (fieldD3 op) (fieldR3 op)⟩,
    ⟨0xFF88, 0x0380, fun op _ => .fmuls (fieldD3 op) (fieldR3 op)⟩,
    ⟨0xFF88, 0x0388, fun op _ => .fmulsu (fieldD3 op) (fieldR3 op)⟩,
    ⟨0xFC00, 0x0400, fun op _ => .cpc (fieldD5 op) (fieldR5 op)⟩,
    ⟨0xFC00, 0x0800, fun op _ => .sbc (fieldD5 op) (fieldR5 op)⟩,
    ⟨0xFC00, 0x0C00, fun op _ => .add (fieldD5 op) (fieldR5 op)⟩,
    ⟨0xFC00, 0x1000, fun op _ => .cpse (fieldD5 op) (fieldR5 op)⟩,
    ⟨0xFC00, 0x1400, fun op _ => .cp (fieldD5 op) (fieldR5 op)⟩,
    ⟨0xFC00, 0x1800, fun op _ => .sub (fieldD5 op) (fieldR5 op)⟩,
    ⟨0xFC00, 0x1C00, fun op _ => .adc (fieldD5 op) (fieldR5 op)⟩,
    ⟨0xFC00, 0x2000, fun op _ => .and (fieldD5 op) (fieldR5 op)⟩,
    ⟨0xFC00, 0x2400, fun op _ => .eor (fieldD5 op) (fieldR5 op)⟩,
    ⟨0xFC00, 0x2800, fun op _ => .or (fieldD5 op) (fieldR5 op)⟩,
    ⟨0xFC00, 0x2C00, fun op _ => .mov (fieldD5 op) (fieldR5 op)⟩,
    ⟨0xF000, 0x3000, fun op _ => .cpi (fieldD4 op) (fieldK8 op)⟩,
    ⟨0xF000, 0x4000, fun op _ => .sbci (fieldD4 op) (fieldK8 op)⟩ ]

/-- Rows 21 to 40 of R142. -/
def rows21 : List Row :=
  [ ⟨0xF000, 0x5000, fun op _ => .subi (fieldD4 op) (fieldK8 op)⟩,
    ⟨0xF000, 0x6000, fun op _ => .ori (fieldD4 op) (fieldK8 op)⟩,
    ⟨0xF000, 0x7000, fun op _ => .andi (fieldD4 op) (fieldK8 op)⟩,
    ⟨0xFE0F, 0x8000, fun op _ => .ldZ (fieldD5 op)⟩,
    ⟨0xFE0F, 0x8008, fun op _ => .ldY (fieldD5 op)⟩,
    ⟨0xFE0F, 0x8200, fun op _ => .stZ (fieldD5 op)⟩,
    ⟨0xFE0F, 0x8208, fun op _ => .stY (fieldD5 op)⟩,
    ⟨0xD208, 0x8000, fun op _ => .lddZ (fieldD5 op) (fieldQ op)⟩,
    ⟨0xD208, 0x8008, fun op _ => .lddY (fieldD5 op) (fieldQ op)⟩,
    ⟨0xD208, 0x8200, fun op _ => .stdZ (fieldQ op) (fieldD5 op)⟩,
    ⟨0xD208, 0x8208, fun op _ => .stdY (fieldQ op) (fieldD5 op)⟩,
    ⟨0xFE0F, 0x9000, fun op w2 => .lds (fieldD5 op) w2⟩,
    ⟨0xFE0F, 0x9001, fun op _ => .ldZInc (fieldD5 op)⟩,
    ⟨0xFE0F, 0x9002, fun op _ => .ldZDec (fieldD5 op)⟩,
    ⟨0xFE0F, 0x9004, fun op _ => .lpmZ (fieldD5 op)⟩,
    ⟨0xFE0F, 0x9005, fun op _ => .lpmZInc (fieldD5 op)⟩,
    ⟨0xFE0F, 0x9006, fun op _ => .elpmZ (fieldD5 op)⟩,
    ⟨0xFE0F, 0x9007, fun op _ => .elpmZInc (fieldD5 op)⟩,
    ⟨0xFE0F, 0x9009, fun op _ => .ldYInc (fieldD5 op)⟩,
    ⟨0xFE0F, 0x900A, fun op _ => .ldYDec (fieldD5 op)⟩ ]

/-- Rows 41 to 60 of R142. -/
def rows41 : List Row :=
  [ ⟨0xFE0F, 0x900C, fun op _ => .ldX (fieldD5 op)⟩,
    ⟨0xFE0F, 0x900D, fun op _ => .ldXInc (fieldD5 op)⟩,
    ⟨0xFE0F, 0x900E, fun op _ => .ldXDec (fieldD5 op)⟩,
    ⟨0xFE0F, 0x900F, fun op _ => .pop (fieldD5 op)⟩,
    ⟨0xFE0F, 0x9200, fun op w2 => .sts w2 (fieldD5 op)⟩,
    ⟨0xFE0F, 0x9201, fun op _ => .stZInc (fieldD5 op)⟩,
    ⟨0xFE0F, 0x9202, fun op _ => .stZDec (fieldD5 op)⟩,
    ⟨0xFE0F, 0x9204, fun op _ => .xch (fieldD5 op)⟩,
    ⟨0xFE0F, 0x9205, fun op _ => .las (fieldD5 op)⟩,
    ⟨0xFE0F, 0x9206, fun op _ => .lac (fieldD5 op)⟩,
    ⟨0xFE0F, 0x9207, fun op _ => .lat (fieldD5 op)⟩,
    ⟨0xFE0F, 0x9209, fun op _ => .stYInc (fieldD5 op)⟩,
    ⟨0xFE0F, 0x920A, fun op _ => .stYDec (fieldD5 op)⟩,
    ⟨0xFE0F, 0x920C, fun op _ => .stX (fieldD5 op)⟩,
    ⟨0xFE0F, 0x920D, fun op _ => .stXInc (fieldD5 op)⟩,
    ⟨0xFE0F, 0x920E, fun op _ => .stXDec (fieldD5 op)⟩,
    ⟨0xFE0F, 0x920F, fun op _ => .push (fieldD5 op)⟩,
    ⟨0xFE0F, 0x9400, fun op _ => .com (fieldD5 op)⟩,
    ⟨0xFE0F, 0x9401, fun op _ => .neg (fieldD5 op)⟩,
    ⟨0xFE0F, 0x9402, fun op _ => .swap (fieldD5 op)⟩ ]

/-- Rows 61 to 80 of R142. -/
def rows61 : List Row :=
  [ ⟨0xFE0F, 0x9403, fun op _ => .inc (fieldD5 op)⟩,
    ⟨0xFE0F, 0x9405, fun op _ => .asr (fieldD5 op)⟩,
    ⟨0xFE0F, 0x9406, fun op _ => .lsr (fieldD5 op)⟩,
    ⟨0xFE0F, 0x9407, fun op _ => .ror (fieldD5 op)⟩,
    ⟨0xFF8F, 0x9408, fun op _ => .bset (fieldS op)⟩,
    ⟨0xFF8F, 0x9488, fun op _ => .bclr (fieldS op)⟩,
    ⟨0xFFFF, 0x9508, fun _ _ => .ret⟩,
    ⟨0xFFFF, 0x9518, fun _ _ => .reti⟩,
    ⟨0xFFFF, 0x9588, fun _ _ => .sleep⟩,
    ⟨0xFFFF, 0x9598, fun _ _ => .brk⟩,
    ⟨0xFFFF, 0x95A8, fun _ _ => .wdr⟩,
    ⟨0xFFFF, 0x95C8, fun _ _ => .lpmR0⟩,
    ⟨0xFFFF, 0x95D8, fun _ _ => .elpmR0⟩,
    ⟨0xFFFF, 0x95E8, fun _ _ => .spm⟩,
    ⟨0xFFFF, 0x95F8, fun _ _ => .spmZInc⟩,
    ⟨0xFFFF, 0x9409, fun _ _ => .ijmp⟩,
    ⟨0xFFFF, 0x9419, fun _ _ => .eijmp⟩,
    ⟨0xFFFF, 0x9509, fun _ _ => .icall⟩,
    ⟨0xFFFF, 0x9519, fun _ _ => .eicall⟩,
    ⟨0xFE0F, 0x940A, fun op _ => .dec (fieldD5 op)⟩ ]

/-- Rows 81 to 100 of R142. -/
def rows81 : List Row :=
  [ ⟨0xFF0F, 0x940B, fun op _ => .des (fieldK4 op)⟩,
    ⟨0xFE0E, 0x940C, fun op w2 => .jmp (fieldK22 op w2)⟩,
    ⟨0xFE0E, 0x940E, fun op w2 => .call (fieldK22 op w2)⟩,
    ⟨0xFF00, 0x9600, fun op _ => .adiw (fieldPairImm op) (fieldK6 op)⟩,
    ⟨0xFF00, 0x9700, fun op _ => .sbiw (fieldPairImm op) (fieldK6 op)⟩,
    ⟨0xFF00, 0x9800, fun op _ => .cbi (fieldA5 op) (fieldB op)⟩,
    ⟨0xFF00, 0x9900, fun op _ => .sbic (fieldA5 op) (fieldB op)⟩,
    ⟨0xFF00, 0x9A00, fun op _ => .sbi (fieldA5 op) (fieldB op)⟩,
    ⟨0xFF00, 0x9B00, fun op _ => .sbis (fieldA5 op) (fieldB op)⟩,
    ⟨0xFC00, 0x9C00, fun op _ => .mul (fieldD5 op) (fieldR5 op)⟩,
    ⟨0xF800, 0xB000, fun op _ => .inp (fieldD5 op) (fieldA6 op)⟩,
    ⟨0xF800, 0xB800, fun op _ => .outp (fieldA6 op) (fieldD5 op)⟩,
    ⟨0xF000, 0xC000, fun op _ => .rjmp (fieldK12 op)⟩,
    ⟨0xF000, 0xD000, fun op _ => .rcall (fieldK12 op)⟩,
    ⟨0xF000, 0xE000, fun op _ => .ldi (fieldD4 op) (fieldK8 op)⟩,
    ⟨0xFC00, 0xF000, fun op _ => .brbs (fieldB op) (fieldK7 op)⟩,
    ⟨0xFC00, 0xF400, fun op _ => .brbc (fieldB op) (fieldK7 op)⟩,
    ⟨0xFE08, 0xF800, fun op _ => .bld (fieldD5 op) (fieldB op)⟩,
    ⟨0xFE08, 0xFA00, fun op _ => .bst (fieldD5 op) (fieldB op)⟩,
    ⟨0xFE08, 0xFC00, fun op _ => .sbrc (fieldD5 op) (fieldB op)⟩ ]

/-- Rows 101 to 101 of R142. -/
def rows101 : List Row :=
  [ ⟨0xFE08, 0xFE00, fun op _ => .sbrs (fieldD5 op) (fieldB op)⟩ ]

/-- The opcode table of R142, in decode order. -/
def rows : List Row := rows1 ++ rows21 ++ rows41 ++ rows61 ++ rows81 ++ rows101

/-- Whether a first word belongs to a two-word form (R120). -/
def isLong (op : Word) : Bool := op &&& 0xFE0C == 0x940C || op &&& 0xFC0F == 0x9000

/-- The first row that matches decides (R121); the second word is looked at by the two-word forms only (R120). -/
def decode (op w2 : Word) : Except DecodeError Instr :=
  match rows.find? (fun r => r.accepts op) with
  | some r => .ok (r.build op w2)
  | none => .error (.unknownOpcode op)

/-- Decoding a byte image in flash order, each word low byte first (R93): the instruction and the bytes after it. -/
def decodeBytes : List Byte → Except DecodeError (Instr × List Byte)
  | lo :: hi :: rest =>
    let op := pairOf hi lo
    if isLong op then
      match rest with
      | lo2 :: hi2 :: rest2 => (decode op (pairOf hi2 lo2)).map (·, rest2)
      | _ => .error .truncated
    else (decode op 0).map (·, rest)
  | _ => .error .truncated

/-! ## The encoder (R123 to R140) -/

/-- A number placed with its bit 0 at bit `lo` of a word. -/
def place (n lo : Nat) : Word := BitVec.ofNat 16 (n <<< lo)

/-- F1: `oooo oord dddd rrrr`. -/
def encF1 (base : Word) (d r : Reg) : Word :=
  base ||| place d.val 4 ||| place (r.val / 16) 9 ||| place (r.val % 16) 0

/-- F2: `oooo oooo dddd rrrr`, even registers. -/
def encF2 (base : Word) (d r : Reg) : Word := base ||| place (d.val / 2) 4 ||| place (r.val / 2) 0

/-- F3: `oooo oooo dddd rrrr`, upper registers. -/
def encF3 (base : Word) (d r : Reg) : Word := base ||| place (d.val - 16) 4 ||| place (r.val - 16) 0

/-- F4: `0000 0011 fddd grrr`. -/
def encF4 (base : Word) (d r : Reg) : Word := encF3 base d r

/-- F5: `oooo KKKK dddd KKKK`. -/
def encF5 (base : Word) (d : Reg) (k : Byte) : Word :=
  base ||| place (k.toNat / 16) 8 ||| place (d.val - 16) 4 ||| place (k.toNat % 16) 0

/-- F6: `10q0 qqsd dddd yqqq`. -/
def encF6 (base : Word) (d : Reg) (q : BitVec 6) : Word :=
  base ||| place (q.toNat / 32) 13 ||| place (q.toNat / 8 % 4) 10 ||| place (q.toNat % 8) 0 ||| place d.val 4

/-- F7 and the first word of F8: `oooo oooD dddd oooo`. -/
def encF7 (base : Word) (d : Reg) : Word := base ||| place d.val 4

/-- F9: `1001 0100 csss 1000`. -/
def encF9 (base : Word) (s : Bit) : Word := base ||| place s.val 4

/-- F11: `1001 0100 KKKK 1011`. -/
def encF11 (base : Word) (k : BitVec 4) : Word := base ||| place k.toNat 4

/-- The first word of F12: `1001 010k kkkk 11ck`. -/
def encF12 (base : Word) (k : BitVec 22) : Word :=
  base ||| place (k.toNat / 0x20000) 4 ||| place (k.toNat / 0x10000 % 2) 0

/-- F13: `1001 011c KKdd KKKK`. -/
def encF13 (base : Word) (d : Reg) (k : BitVec 6) : Word :=
  base ||| place (k.toNat / 16) 6 ||| place ((d.val - 24) / 2) 4 ||| place (k.toNat % 16) 0

/-- F14: `1001 10oo AAAA Abbb`. -/
def encF14 (base : Word) (a : BitVec 5) (b : Bit) : Word := base ||| place a.toNat 3 ||| place b.val 0

/-- F15: `1011 sAAd dddd AAAA`. -/
def encF15 (base : Word) (d : Reg) (a : BitVec 6) : Word :=
  base ||| place (a.toNat / 16) 9 ||| place d.val 4 ||| place (a.toNat % 16) 0

/-- F16: `110c kkkk kkkk kkkk`. -/
def encF16 (base : Word) (k : BitVec 12) : Word := base ||| place k.toNat 0

/-- F17: `1111 0ckk kkkk ksss`. -/
def encF17 (base : Word) (s : Bit) (k : BitVec 7) : Word := base ||| place k.toNat 3 ||| place s.val 0

/-- F18: `1111 1oor rrrr 0bbb`. -/
def encF18 (base : Word) (r : Reg) (b : Bit) : Word := base ||| place r.val 4 ||| place b.val 0

/-- Bits 15:0 of a 22-bit address, the second word of F12 (R134). -/
def lowWord (k : BitVec 22) : Word := k.extractLsb' 0 16

/-- The words of a well-formed instruction, the first word first (R142). -/
def encode : Instr → List Word
  | .nop => [0x0000]
  | .movw d r => [encF2 0x0100 d r]
  | .muls d r => [encF3 0x0200 d r]
  | .mulsu d r => [encF4 0x0300 d r]
  | .fmul d r => [encF4 0x0308 d r]
  | .fmuls d r => [encF4 0x0380 d r]
  | .fmulsu d r => [encF4 0x0388 d r]
  | .cpc d r => [encF1 0x0400 d r]
  | .sbc d r => [encF1 0x0800 d r]
  | .add d r => [encF1 0x0C00 d r]
  | .cpse d r => [encF1 0x1000 d r]
  | .cp d r => [encF1 0x1400 d r]
  | .sub d r => [encF1 0x1800 d r]
  | .adc d r => [encF1 0x1C00 d r]
  | .and d r => [encF1 0x2000 d r]
  | .eor d r => [encF1 0x2400 d r]
  | .or d r => [encF1 0x2800 d r]
  | .mov d r => [encF1 0x2C00 d r]
  | .cpi d k => [encF5 0x3000 d k]
  | .sbci d k => [encF5 0x4000 d k]
  | .subi d k => [encF5 0x5000 d k]
  | .ori d k => [encF5 0x6000 d k]
  | .andi d k => [encF5 0x7000 d k]
  | .ldZ d => [encF6 0x8000 d 0]
  | .ldY d => [encF6 0x8008 d 0]
  | .stZ r => [encF6 0x8200 r 0]
  | .stY r => [encF6 0x8208 r 0]
  | .lddZ d q => [encF6 0x8000 d q]
  | .lddY d q => [encF6 0x8008 d q]
  | .stdZ q r => [encF6 0x8200 r q]
  | .stdY q r => [encF6 0x8208 r q]
  | .lds d k => [encF7 0x9000 d, k]
  | .ldZInc d => [encF7 0x9001 d]
  | .ldZDec d => [encF7 0x9002 d]
  | .lpmZ d => [encF7 0x9004 d]
  | .lpmZInc d => [encF7 0x9005 d]
  | .elpmZ d => [encF7 0x9006 d]
  | .elpmZInc d => [encF7 0x9007 d]
  | .ldYInc d => [encF7 0x9009 d]
  | .ldYDec d => [encF7 0x900A d]
  | .ldX d => [encF7 0x900C d]
  | .ldXInc d => [encF7 0x900D d]
  | .ldXDec d => [encF7 0x900E d]
  | .pop d => [encF7 0x900F d]
  | .sts k r => [encF7 0x9200 r, k]
  | .stZInc r => [encF7 0x9201 r]
  | .stZDec r => [encF7 0x9202 r]
  | .xch d => [encF7 0x9204 d]
  | .las d => [encF7 0x9205 d]
  | .lac d => [encF7 0x9206 d]
  | .lat d => [encF7 0x9207 d]
  | .stYInc r => [encF7 0x9209 r]
  | .stYDec r => [encF7 0x920A r]
  | .stX r => [encF7 0x920C r]
  | .stXInc r => [encF7 0x920D r]
  | .stXDec r => [encF7 0x920E r]
  | .push r => [encF7 0x920F r]
  | .com d => [encF7 0x9400 d]
  | .neg d => [encF7 0x9401 d]
  | .swap d => [encF7 0x9402 d]
  | .inc d => [encF7 0x9403 d]
  | .asr d => [encF7 0x9405 d]
  | .lsr d => [encF7 0x9406 d]
  | .ror d => [encF7 0x9407 d]
  | .bset s => [encF9 0x9408 s]
  | .bclr s => [encF9 0x9488 s]
  | .ret => [0x9508]
  | .reti => [0x9518]
  | .sleep => [0x9588]
  | .brk => [0x9598]
  | .wdr => [0x95A8]
  | .lpmR0 => [0x95C8]
  | .elpmR0 => [0x95D8]
  | .spm => [0x95E8]
  | .spmZInc => [0x95F8]
  | .ijmp => [0x9409]
  | .eijmp => [0x9419]
  | .icall => [0x9509]
  | .eicall => [0x9519]
  | .dec d => [encF7 0x940A d]
  | .des k => [encF11 0x940B k]
  | .jmp k => [encF12 0x940C k, lowWord k]
  | .call k => [encF12 0x940E k, lowWord k]
  | .adiw d k => [encF13 0x9600 d k]
  | .sbiw d k => [encF13 0x9700 d k]
  | .cbi a b => [encF14 0x9800 a b]
  | .sbic a b => [encF14 0x9900 a b]
  | .sbi a b => [encF14 0x9A00 a b]
  | .sbis a b => [encF14 0x9B00 a b]
  | .mul d r => [encF1 0x9C00 d r]
  | .inp d a => [encF15 0xB000 d a]
  | .outp a r => [encF15 0xB800 r a]
  | .rjmp k => [encF16 0xC000 k]
  | .rcall k => [encF16 0xD000 k]
  | .ldi d k => [encF5 0xE000 d k]
  | .brbs s k => [encF17 0xF000 s k]
  | .brbc s k => [encF17 0xF400 s k]
  | .bld d b => [encF18 0xF800 d b]
  | .bst d b => [encF18 0xFA00 d b]
  | .sbrc r b => [encF18 0xFC00 r b]
  | .sbrs r b => [encF18 0xFE00 r b]

/-- The first word of an instruction, the `op` its log records carry (R282). -/
def firstWord (i : Instr) : Word := (encode i).headD 0

/-- The instruction this decoder reads from an instruction whose bits are `w` numbered as spec/opcode_table.json numbers
them: bit 0 the least significant bit of the first word, bits 31:16 the second word; every bit above `nbits` is 0. The words
are laid out as flash bytes (R93) and given to the decoder. -/
def decodeTableWord (nbits w : Nat) : Option Instr :=
  let v := BitVec.ofNat 32 (w % 2 ^ nbits)
  match decodeBytes [v.extractLsb' 0 8, v.extractLsb' 8 8, v.extractLsb' 16 8, v.extractLsb' 24 8] with
  | .ok (i, _) => some i
  | .error _ => none

end Sys2Proof
end

