-- ==== Sys2Proof/Config.lean ====
section
/-! DEFINITION. What a device is built from (00_scope.md R7 to R10, 20_memory.md R90, 60_exceptions.md R410): its
parameters, the types in which an external block answers, and the free values of the spec. The parameters are plain data
that the state carries and no step changes. -/

namespace Sys2Proof

/-- The clock domains (R455). -/
inductive Domain where
  | sys | cpu | per | per2 | per4 | asy
  deriving DecidableEq, Repr, Inhabited

/-- Which behaviour a registered block has: one of the blocks in scope, the reference GPIOR of R410, or an external
block whose hooks are free (`external`). -/
inductive BlockKind where
  | cpu | clk | pmic | gpior | external
  deriving DecidableEq, Repr

/-- A cell of the block registry (R90, R410). `callsCore` is false for a block whose hooks never call a service of
the core and whose reset leaves it in one fixed state (DESIGN CHOICE, notes/assumptions/7.md). -/
structure BlockDecl where
  kind : BlockKind
  ioBase : Nat
  ioSize : Nat
  ivBase : Nat
  ivCount : Nat
  callsCore : Bool
  deriving DecidableEq, Repr

/-- An entry of the parameter `cycles` (R10, R512): the form, the default count it replaces (a form with several
defaults, such as a branch, has one entry for each), and the count. -/
structure CycleEntry where
  form : Form
  default : Nat
  count : Nat
  deriving DecidableEq, Repr

/-- The parameters of a device, fixed at construction (R7, R9, R10). -/
structure Params where
  flashSize : Nat
  flashPageSize : Nat
  flashBootSize : Nat
  eepromSize : Nat
  sramSize : Nat
  exsramStart : Nat
  exsramSize : Nat
  rampdMask : Byte
  rampxMask : Byte
  rampyMask : Byte
  rampzMask : Byte
  eindMask : Byte
  cycles : List CycleEntry
  nmiReentrant : Bool
  osc : BlockDecl
  gpior : BlockDecl
  further : List BlockDecl
  deriving DecidableEq, Repr

/-! ## What an external block can answer (R410, R412, R467) -/

/-- A call of a core service by a block (R410). The tag names the block's own callback. The rules say of a priority only
"lower first" (R460, R462); it is an integer (DESIGN CHOICE, notes/assumptions/30.md). A vector and a level are integers too,
so that every value R425 excludes can be given (DESIGN CHOICE, notes/assumptions/38.md). -/
inductive ServiceCall where
  | setIvLevel (iv level : Int)
  | schedule (domain : Domain) (tag ticks : Nat) (priority : Int)
  | unschedule (handle : Nat)
  deriving DecidableEq, Repr, Inhabited

/-- What a block may read of the core: the cross-block peeks of R410 (CLK prescaler, CCP state, PMIC status) and the
handle the next `schedule` will return, which a block that calls it learns (R464). R410 gives the three as examples and does not
say what each holds: that there are no others, and that they are PSCTRL, the CCP register with both window counters (R48), and
STATUS, is a DESIGN CHOICE (notes/assumptions/34.md). -/
structure Peek where
  psctrl : Byte
  ccpReg : Byte
  ccpIoreg : Nat
  ccpSpm : Nat
  pmicStatus : BitVec 4
  nextHandle : Nat
  deriving DecidableEq, Repr

/-- A hook's answer: the byte read (used by `get_io` only), the block's next state, and its service calls in order. -/
structure HookReply where
  value : Byte
  data : List Nat
  calls : List ServiceCall
  deriving DecidableEq, Repr, Inhabited

/-- A scheduler callback's answer: ticks until the next firing (0 detaches, R460), state, service calls. -/
structure CallbackReply where
  ticks : Nat
  data : List Nat
  calls : List ServiceCall
  deriving DecidableEq, Repr, Inhabited

namespace Config

/-- FREE VALUE `draw()` (R18, R30 to R87, R282): the n-th value drawn in a run, any byte (notes/assumptions/3.md). -/
opaque draw : Nat → Byte

/-- FREE VALUE: the byte of internal SRAM at a data address at construction, any byte (R54, R503; notes/assumptions/4.md). -/
opaque sramPowerOn : Nat → Byte

/-- FREE: `get_io` of the external block at a place of the registry (R410; notes/assumptions/6.md): the block's state, the
local address, the peeks. -/
opaque extGetIo : Nat → List Nat → Nat → Peek → HookReply

/-- FREE: `set_io` of an external block (R410): state, local address, byte, peeks. -/
opaque extSetIo : Nat → List Nat → Nat → Byte → Peek → HookReply

/-- FREE: `execute_iv` of an external block (R410, R411): state, local vector, peeks. -/
opaque extExecuteIv : Nat → List Nat → Nat → Peek → HookReply

/-- FREE: `reset` of an external block that calls the core (R410, R501): state, peeks. -/
opaque extReset : Nat → List Nat → Peek → HookReply

/-- FREE: a scheduler callback of an external block or of the host (R410, R460): owner, tag, state, peeks. -/
opaque extCallback : Nat → Nat → List Nat → Peek → CallbackReply

end Config

end Sys2Proof
end

