-- ==== Sys2Proof/Machine/Device.lean ====
section
/-! DEFINITION. What follows from the parameters (00_scope.md R7 to R11): derived sizes, the block registry, the
construction checks, the default masks, the cycle counts, and the configurations C0 and C1 of 95_test_vectors.md. -/

namespace Sys2Proof

/-! ## Fixed constants (R11) -/

def memIoSize : Nat := 0x1000
def memEepromStart : Nat := 0x1000
def memSramStart : Nat := 0x2000
def memEmulatorStart : Nat := 0xFF00
def memEmulatorSize : Nat := 0x100
def memMaxSize : Nat := 0x01000000
def ivMaxCount : Nat := 0x80

/-- `flash_words` (R8). -/
def Params.flashWords (p : Params) : Nat := p.flashSize / 2

/-- `flash_app_size` (R8, D27). -/
def Params.flashAppSize (p : Params) : Nat := p.flashSize - p.flashBootSize

/-- `big_pc` (R8): whether return addresses take three bytes. -/
def Params.bigPc (p : Params) : Bool := decide (0x20000 < p.flashSize)

/-- `ret_bytes` (R8). -/
def Params.retBytes (p : Params) : Nat := if p.bigPc then 3 else 2

/-- `flash_boot_start_words` (R431, D27). -/
def Params.bootStartWords (p : Params) : Nat := (p.flashSize - p.flashBootSize) / 2

/-- The block ranges in scope: CPU (R47), CLK (R450), PMIC (R421). -/
def Params.cpuBlock : BlockDecl := ⟨.cpu, 0x30, 0x10, 0, 0, false⟩
def Params.clkBlock : BlockDecl := ⟨.clk, 0x40, 8, 0, 0, false⟩
def Params.pmicBlock : BlockDecl := ⟨.pmic, 0xA0, 3, 0, 0, false⟩

/-- The default ranges of OSC and of the reference GPIOR (R410, D31, D48). -/
def Params.defaultOsc : BlockDecl := ⟨.external, 0x50, 8, 0, 0, false⟩
def Params.defaultGpior : BlockDecl := ⟨.gpior, 0x00, 0x10, 0, 0, false⟩

/-- The registry in registration order: CPU, OSC, CLK, PMIC, GPIOR, then the further blocks (R90, R503). -/
def Params.registry (p : Params) : List BlockDecl :=
  [cpuBlock, p.osc, clkBlock, pmicBlock, p.gpior] ++ p.further

/-- Whether two half-open ranges share a cell; an empty range has none. -/
def Params.rangesMeet (base size base' size' : Nat) : Bool :=
  decide (0 < size) && decide (0 < size') && decide (base < base' + size') && decide (base' < base + size)

/-- `connect` of R90: ranges within the tables, no cell occupied twice. -/
def Params.connectable : List BlockDecl → Bool
  | [] => true
  | b :: bs =>
    decide (b.ioBase + b.ioSize ≤ memIoSize) && decide (b.ivBase + b.ivCount ≤ ivMaxCount) &&
      bs.all (fun c => !rangesMeet b.ioBase b.ioSize c.ioBase c.ioSize &&
        !rangesMeet b.ivBase b.ivCount c.ivBase c.ivCount) &&
      connectable bs

/-- A legal-bit mask has the form 2^k - 1 (R9). -/
def Params.maskLegal (m : Byte) : Bool := m &&& (m + 1) == 0

/-- The construction checks: R7, the mask form of R9, the block connections of R90 and R503, and no `cycles` entry
of 0 (R512). A GPIOR of the reference kind has its 16 bytes (R410). -/
def Params.valid (p : Params) : Bool :=
  p.flashPageSize % 2 == 0 &&
  p.flashSize % p.flashPageSize == 0 && p.flashBootSize % p.flashPageSize == 0 &&
  decide (p.flashBootSize < p.flashAppSize) &&
  decide (p.eepromSize ≤ 0x1000) && decide (p.sramSize < memMaxSize - memSramStart) &&
  [p.rampdMask, p.rampxMask, p.rampyMask, p.rampzMask, p.eindMask].all maskLegal &&
  connectable p.registry && (p.osc :: p.gpior :: p.further).all (fun b => b.kind == .external ||
    (b.kind == .gpior && b.ioSize == 16)) &&
  p.cycles.all (fun c => c.count != 0)

/-! ## The default mask derivation of R9 (D42) -/

/-- `bitmask(x)` of R9, as a byte. -/
def Params.bitmask (x : Nat) : Byte := if x = 0 then 0 else BitVec.ofNat 8 (2 ^ (Nat.log2 x + 1) - 1)

/-- `data_top` of R9. -/
def Params.dataTop (p : Params) : Nat :=
  max (memSramStart + p.sramSize) (if p.exsramSize > 0 then p.exsramStart + p.exsramSize else 0)

/-- The parameters with the five masks of the default derivation of R9. -/
def Params.withDefaultMasks (p : Params) : Params :=
  let m := bitmask ((p.dataTop - 1) >>> 16)
  { p with
    rampdMask := m, rampxMask := m, rampyMask := m,
    rampzMask := bitmask (max ((p.dataTop - 1) >>> 16) ((p.flashSize - 1) >>> 16)),
    eindMask := bitmask ((p.flashWords - 1) >>> 16) }

/-- The nominal cycle count of a form whose rule gives `default` (R512): the parameter's entry, or the default. An entry of 0
is never used (R512, D16). -/
def Params.cyclesOf (p : Params) (f : Form) (default : Nat) : Nat :=
  match p.cycles.find? (fun c => c.form == f && c.default == default && c.count != 0) with
  | some c => c.count
  | none => default

/-- Configuration C0 of 95_test_vectors.md section 0, with the default OSC of R410 (R503). -/
def configC0 : Params where
  flashSize := 0x8000
  flashPageSize := 0x100
  flashBootSize := 0x1000
  eepromSize := 0
  sramSize := 0x2000
  exsramStart := 0
  exsramSize := 0
  rampdMask := 0
  rampxMask := 0
  rampyMask := 0
  rampzMask := 0
  eindMask := 0
  cycles := []
  nmiReentrant := true
  osc := Params.defaultOsc
  gpior := Params.defaultGpior
  further := []

/-- Configuration C1 (big flash) of 95_test_vectors.md section 0. -/
def configC1 : Params :=
  { configC0 with flashSize := 0x80000, flashBootSize := 0x2000, rampzMask := 7, eindMask := 3 }

/-- The SP reset value, the top byte of internal SRAM (R44, D2), as a 16-bit register holds it. -/
def spReset (p : Params) : Word := BitVec.ofNat 16 (memSramStart + p.sramSize - 1)

end Sys2Proof
end

