-- ==== Sys2Proof/Machine/State.lean ====
section
/-! DEFINITION. The whole state of the device as plain data (10_state.md R30), the reasons a step can stop, and the state
after reset (70_reset_and_hazards.md R502). -/

namespace Sys2Proof.Machine

open Sys2Proof

/-! ## The log (00_scope.md R17, 60_exceptions.md R402) -/

/-- The severities of R402. -/
inductive Severity where
  | warn | error | critical
  deriving DecidableEq, Repr

/-- The log kinds of R402, each with the information its rule records. The rules name none for `setPcOutOfRange`, which carries
the refused address (DESIGN CHOICE, notes/assumptions/35.md), and for `asyDomain`, which carries nothing (DESIGN CHOICE,
notes/assumptions/22.md). -/
inductive LogRecord where
  | ioNoBlock (addr : Nat)
  | unmapped (addr : Nat)
  | eepromStub (addr : Nat)
  | exsramStub (addr : Nat)
  | readOnlyWrite (addr : Nat)
  | clkLockedWrite (addr : Nat)
  | clkReservedValue (value : Byte)
  | unknownOpcode (pc : Int) (op : Word)
  | eindOnSmallFlash (pc : Int)
  | undefinedPointerOverlap (pc : Int) (op : Word)
  | retiNoActiveLevel (pc : Int)
  | invalidIntLevel (iv level : Int)
  | unscheduleUnknown (handle : Nat)
  | schedulerEmpty
  | setPcOutOfRange (value : Nat)
  | asyDomain
  deriving DecidableEq, Repr

/-- The severity of each kind, as the table of R402 gives it. -/
def LogRecord.severity : LogRecord → Severity
  | .eepromStub _ | .exsramStub _ | .clkReservedValue _ | .asyDomain => .warn
  | .ioNoBlock _ | .unmapped _ | .readOnlyWrite _ | .clkLockedWrite _ | .unknownOpcode _ _ | .eindOnSmallFlash _ => .error
  | .undefinedPointerOverlap _ _ | .retiNoActiveLevel _ | .invalidIntLevel _ _ | .unscheduleUnknown _ | .schedulerEmpty
  | .setPcOutOfRange _ => .critical

/-! ## The scheduler (60_exceptions.md R460) -/

/-- Whose callback an event runs: the CPU step (R468, R510), or the callback `tag` of the client `owner` (a place in the
block registry, or any other number for the host). -/
inductive Callback where
  | cpuStep
  | client (owner tag : Nat)
  deriving DecidableEq, Repr

/-- An event (R460). The rules give `priority` no type, only "lower first"; it is an integer, of any sign (DESIGN CHOICE,
notes/assumptions/30.md). -/
structure Event where
  handle : Nat
  domain : Domain
  callback : Callback
  priority : Int
  tick : Nat
  scale : Nat
  seq : Nat
  deriving DecidableEq, Repr

/-- The scheduler state (R460). The heap is held in ascending insertion number, so equal multisets are equal lists. -/
structure Sched where
  currentSysTick : Nat
  heap : List Event
  running : Option Event
  nextHandle : Nat
  nextSeq : Nat
  deriving DecidableEq, Repr

/-! ## Interrupt controller and clock registers (R420, R421, R450) -/

/-- PMIC state (R420). The four pending sets are held as strictly rising lists. -/
structure Pmic where
  lo : List Nat
  med : List Nat
  hi : List Nat
  nmi : List Nat
  status : BitVec 4
  intpri : Byte
  ctrl : Byte
  deriving DecidableEq, Repr

/-- CLK registers (R450). -/
structure Clk where
  ctrl : Byte
  psctrl : Byte
  lock : Byte
  rtcctrl : Byte
  deriving DecidableEq, Repr

/-! ## Model faults (00_scope.md R16, 60_exceptions.md R403) -/

/-- The recorded fault of R403, with the information its row names. -/
inductive ModelFault where
  | fetchOutOfRange (addr : Int)
  | stackOutsideSram (addr : Nat)
  | flashReadOutOfRange (addr : Nat)
  | schedulerEmpty
  | scheduleZeroTicks (domain : Domain) (priority : Int)
  | callbackHeapMutation (call : ServiceCall)
  deriving DecidableEq, Repr

/-! ## The state (R30) -/

/-- A memory: (address, byte) pairs at strictly rising addresses (notes/assumptions/4.md, 5.md). -/
abbrev Memory := List Host.Cell

/-- The state of the device: the tuple of R30, the configuration it was built from (R7), and at the end the model's
own counter of free values. -/
structure State where
  /-- R[0..31] (R31). -/
  regs : Vector Byte 32
  /-- The program counter, an exact integer word address (R35, R37). -/
  pc : Int
  /-- The stack pointer (R43). -/
  sp : Word
  /-- The status register (R40). -/
  sreg : Byte
  /-- The address-extension registers, each holding its legal bits (R45). -/
  rampd : Byte
  rampx : Byte
  rampy : Byte
  rampz : Byte
  eind : Byte
  /-- Configuration change protection (R48, R440). -/
  ccpReg : Byte
  ccpIoreg : Nat
  ccpSpm : Nat
  /-- The CPU cycle debt (R49). -/
  instructionCycles : Nat
  /-- `interrupt_wait_instruction` (R50). -/
  interruptWait : Bool
  /-- The flag set by BREAK (R51). -/
  breaked : Bool
  /-- Flash, as bytes in image order: byte 2w is the low byte of word w (R53, R93). An unlisted byte is 0xFF. -/
  flash : Memory
  /-- Internal SRAM by data address (R54, R85). An unlisted byte was never written and reads as its power-on value. -/
  sram : Memory
  pmic : Pmic
  clk : Clk
  sched : Sched
  /-- The 16 bytes of the reference GPIOR (R410). -/
  gpior : Vector Byte 16
  /-- The state of each external block, at its place in the registry (R30, R410). -/
  ext : List (List Nat)
  /-- The log, newest record first (R17). -/
  log : List LogRecord
  /-- The model-fault mark (R16). -/
  fault : Option ModelFault
  /-- False once a flash image load failed (R504). -/
  usable : Bool
  /-- The configuration (R7 to R10). -/
  params : Params
  /-- The model's own field: how many free values `draw()` has given (notes/assumptions/3.md). -/
  draws : Nat
  deriving DecidableEq, Repr

/-- Why a step has no next state (R403), each with the state recorded at the fault: the effects before it are kept (R403). -/
inductive Fault where
  /-- Raised by instruction fetch and by a skip's look at the next word, outside flash (R37). SAFE: the model stops where the
  device does something the source does not define (D4). -/
  | fetchOutOfRange (addr : Int) (recorded : State)
  /-- Raised by a push or a pop outside internal SRAM (R95). SAFE: as above (D5). -/
  | stackOutsideSram (addr : Nat) (recorded : State)
  /-- Raised by LPM and ELPM beyond flash (R91). SAFE: as above (D11). -/
  | flashReadOutOfRange (addr : Nat) (recorded : State)
  /-- Raised by a scheduler step with an empty heap (R469). SAFE: only before the first reset. -/
  | schedulerEmpty (recorded : State)
  /-- Raised by a `schedule` call with no ticks, from a block or the host (R464). SAFE: the call has no meaning (D46). -/
  | scheduleZeroTicks (domain : Domain) (priority : Int) (recorded : State)
  /-- Raised by a `schedule` or `unschedule` call of a block while a callback runs (R467). SAFE: the source forbids it (D45). -/
  | callbackHeapMutation (call : ServiceCall) (recorded : State)
  deriving DecidableEq, Repr

/-- Why an instruction or a step has no meaning. -/
inductive Refusal where
  /-- An instruction of the table without a meaning yet. No arm of this model answers it. SAFE: nothing is claimed. -/
  | notModelled (mnemonic : String)
  /-- Raised by a step of a device whose flash image load failed (R504). SAFE: such a device has no step. -/
  | deviceUnusable
  deriving DecidableEq, Repr

/-- What executing an instruction or a step answers. -/
abbrev Result := Host.Outcome State Fault Refusal

/-- What an operation answers: a state, or the fault that ends the step at once (R403, R405). -/
abbrev Act := Except Fault State

/-- An operation that also gives a value. -/
abbrev Res (α : Type) := Except Fault (α × State)

/-! ## Construction and reset -/

/-- The device after construction (R503): erased flash, SRAM never written, an empty heap. The registers have no value before
the first reset; zeros stand in for them (notes/assumptions/12.md). A step then is `schedulerEmpty` (R500) unless the host has
scheduled an event before, which sees the zeros (DESIGN CHOICE, notes/assumptions/37.md). The rules give the state of an
external block before its first reset no value either: every block starts with the empty list (DESIGN CHOICE,
notes/assumptions/31.md). -/
def State.blank (p : Params) : State where
  regs := Vector.replicate 32 0
  pc := 0
  sp := 0
  sreg := 0
  rampd := 0
  rampx := 0
  rampy := 0
  rampz := 0
  eind := 0
  ccpReg := 0
  ccpIoreg := 0
  ccpSpm := 0
  instructionCycles := 0
  interruptWait := false
  breaked := false
  flash := []
  sram := []
  pmic := ⟨[], [], [], [], 0, 0, 0⟩
  clk := ⟨0, 0, 0, 0⟩
  sched := ⟨0, [], none, 0, 0⟩
  gpior := Vector.replicate 16 0
  ext := p.registry.map (fun _ => [])
  log := []
  fault := none
  usable := true
  params := p
  draws := 0

/-- The CPU event as reset schedules it: tick 1, scale 1, priority 100 (R501, R468). -/
def cpuEvent (handle seq : Nat) : Event := ⟨handle, .cpu, .cpuStep, 100, 1, 1, seq⟩

/-- The machine right after construction under C0 and `reset()` (R502, R508): pc 0, SP at the top of SRAM, every register
0, the heap holding the CPU event. -/
def State.reset : State :=
  { State.blank configC0 with
    sp := spReset configC0
    sched := ⟨0, [cpuEvent 0 0], none, 1, 1⟩ }

end Sys2Proof.Machine
end

