-- ==== Sys2Proof/Machine/Flags.lean ====
section
/-! DEFINITION. SREG and every flag computation (10_state.md R40 to R42): the bits of SREG, and for each class of
instructions the SREG it leaves. A flag a rule does not name keeps its old value. -/

namespace Sys2Proof.Machine

open Sys2Proof

/-! ## The bits of SREG (R40) -/

/-- One flag of SREG by its bit number. -/
def flag (sreg : Byte) (b : Nat) : Bool := sreg.getLsbD b

def flagC (sreg : Byte) : Bool := flag sreg 0
def flagZ (sreg : Byte) : Bool := flag sreg 1
def flagN (sreg : Byte) : Bool := flag sreg 2
def flagV (sreg : Byte) : Bool := flag sreg 3
def flagS (sreg : Byte) : Bool := flag sreg 4
def flagH (sreg : Byte) : Bool := flag sreg 5
def flagT (sreg : Byte) : Bool := flag sreg 6
def flagI (sreg : Byte) : Bool := flag sreg 7

/-- SREG from its eight flags, I first (R40). -/
def packSreg (i t h s v n z c : Bool) : Byte :=
  BitVec.ofBool i ++ (BitVec.ofBool t ++ (BitVec.ofBool h ++ (BitVec.ofBool s ++
    (BitVec.ofBool v ++ (BitVec.ofBool n ++ (BitVec.ofBool z ++ BitVec.ofBool c))))))

/-- SREG with bit `b` written and the others kept (R201 to R203). -/
def putFlag (sreg : Byte) (b : Bit) (v : Bool) : Byte :=
  if v then sreg ||| ((1 : Byte) <<< b.val) else sreg &&& ~~~((1 : Byte) <<< b.val)

/-- SREG with H, V, N, Z and C written, S written as `N ^ V`, and I and T kept. -/
def putHVNZC (sreg : Byte) (h v n z c : Bool) : Byte :=
  packSreg (flagI sreg) (flagT sreg) h (n ^^ v) v n z c

/-! ## Flag rules -/

/-- Bit `i` of a byte. -/
def bit (x : Byte) (i : Nat) : Bool := x.getLsbD i

/-- A carry-in as a byte. -/
def carryByte (c : Bool) : Byte := if c then 1 else 0

/-- `AddFlags` (R231), for `res = u8(a + b + cin)`. -/
def addFlags (sreg a b res : Byte) : Byte :=
  putHVNZC sreg
    ((bit a 3 && bit b 3) || (bit b 3 && !bit res 3) || (!bit res 3 && bit a 3))
    ((bit a 7 && bit b 7 && !bit res 7) || (!bit a 7 && !bit b 7 && bit res 7))
    (bit res 7) (res == 0)
    ((bit a 7 && bit b 7) || (bit b 7 && !bit res 7) || (!bit res 7 && bit a 7))

/-- `SubFlags` (R232), for `res = u8(a - b - cin)`; with `keepZ` the Z flag is only ever cleared. -/
def subFlags (sreg a b res : Byte) (keepZ : Bool) : Byte :=
  putHVNZC sreg
    ((!bit a 3 && bit b 3) || (bit b 3 && bit res 3) || (bit res 3 && !bit a 3))
    ((bit a 7 && !bit b 7 && !bit res 7) || (!bit a 7 && bit b 7 && bit res 7))
    (bit res 7) ((res == 0) && (!keepZ || flagZ sreg))
    ((!bit a 7 && bit b 7) || (bit b 7 && bit res 7) || (bit res 7 && !bit a 7))

/-- The logic flags (R237, R264): V cleared, H and C kept. -/
def logicFlags (sreg res : Byte) : Byte :=
  putHVNZC sreg (flagH sreg) false (bit res 7) (res == 0) (flagC sreg)

/-- The flags of COM (R211): C set, V cleared, H kept. -/
def comFlags (sreg res : Byte) : Byte :=
  putHVNZC sreg (flagH sreg) false (bit res 7) (res == 0) true

/-- The flags of NEG (R212). -/
def negFlags (sreg a res : Byte) : Byte :=
  putHVNZC sreg (bit res 3 || bit a 3) (res == 0x80) (bit res 7) (res == 0) (res != 0)

/-- The flags of INC (R214): C and H kept. -/
def incFlags (sreg res : Byte) : Byte :=
  putHVNZC sreg (flagH sreg) (res == 0x80) (bit res 7) (res == 0) (flagC sreg)

/-- The flags of DEC (R215): C and H kept. -/
def decFlags (sreg res : Byte) : Byte :=
  putHVNZC sreg (flagH sreg) (res == 0x7F) (bit res 7) (res == 0) (flagC sreg)

/-- The flags of ASR, LSR and ROR (R216 to R218): `C <- a[0]`, `V <- N ^ C`, H kept. -/
def shiftFlags (sreg a res : Byte) : Byte :=
  putHVNZC sreg (flagH sreg) (bit res 7 ^^ bit a 0) (bit res 7) (res == 0) (bit a 0)

/-- The flags of ADIW (R272): H kept. -/
def addWordFlags (sreg : Byte) (a res : Word) : Byte :=
  putHVNZC sreg (flagH sreg) (!a.getLsbD 15 && res.getLsbD 15) (res.getLsbD 15) (res == 0)
    (!res.getLsbD 15 && a.getLsbD 15)

/-- The flags of SBIW (R273): H kept. -/
def subWordFlags (sreg : Byte) (a res : Word) : Byte :=
  putHVNZC sreg (flagH sreg) (a.getLsbD 15 && !res.getLsbD 15) (res.getLsbD 15) (res == 0)
    (res.getLsbD 15 && !a.getLsbD 15)

/-- The flags of the multiplies (R250): C from the unshifted product, Z from the value written, the others kept. -/
def mulFlags (sreg : Byte) (product res : Word) : Byte :=
  packSreg (flagI sreg) (flagT sreg) (flagH sreg) (flagS sreg) (flagV sreg) (flagN sreg) (res == 0) (product.getLsbD 15)

end Sys2Proof.Machine
end

