-- ==== Sys2Proof/Machine/Ops.lean ====
section
/-! DEFINITION. The named operations of the machine: registers, log, faults and free values, flash and SRAM, the scheduler,
the interrupt controller, the I/O blocks, the data-space router, the stack, and taking and leaving an interrupt. -/

namespace Sys2Proof.Machine

open Sys2Proof

/-! ## Log, faults, free values -/

/-- `log(...)`: one record, execution continues (R17). -/
def State.record (s : State) (r : LogRecord) : State := { s with log := r :: s.log }

/-- The fault of a recorded mark, with the state it is recorded in (R403). -/
def faultOf (m : ModelFault) (s : State) : Fault :=
  match m with
  | .fetchOutOfRange a => .fetchOutOfRange a s
  | .stackOutsideSram a => .stackOutsideSram a s
  | .flashReadOutOfRange a => .flashReadOutOfRange a s
  | .schedulerEmpty => .schedulerEmpty s
  | .scheduleZeroTicks d p => .scheduleZeroTicks d p s
  | .callbackHeapMutation c => .callbackHeapMutation c s

/-- `raise` (R16): the step ends in a state that records the fault; what was done before stays in it (R403). A mark that stands
already, which only a call of the host can meet, is replaced by the later one (DESIGN CHOICE, notes/assumptions/36.md). -/
def raise (m : ModelFault) (s : State) : Fault := faultOf m { s with fault := some m }

/-- `draw()`: a value nothing constrains, fresh each time (R18). -/
def drawByte (s : State) : Byte × State := (Config.draw s.draws, { s with draws := s.draws + 1 })

/-! ## Registers (R13, R31 to R36, R45) -/

/-- `R[i]`. -/
def State.reg (s : State) (r : Reg) : Byte := s.regs[r]

/-- `R[i] <- v`. -/
def State.setReg (s : State) (r : Reg) (v : Byte) : State := { s with regs := s.regs.set r v }

/-- `W(i)`: the pair whose low register is `r` (R13). -/
def State.pair (s : State) (r : Reg) : Word := pairOf (s.reg (r + 1)) (s.reg r)

/-- `W(i) <- v`. -/
def State.setPair (s : State) (r : Reg) (v : Word) : State := (s.setReg r (lowByte v)).setReg (r + 1) (highByte v)

def State.setSreg (s : State) (v : Byte) : State := { s with sreg := v }
def State.setPc (s : State) (v : Int) : State := { s with pc := v }
def State.setSp (s : State) (v : Word) : State := { s with sp := v }

/-- A write to an extension register stores the legal bits (R45). -/
def State.setRampd (s : State) (v : Byte) : State := { s with rampd := v &&& s.params.rampdMask }
def State.setRampx (s : State) (v : Byte) : State := { s with rampx := v &&& s.params.rampxMask }
def State.setRampy (s : State) (v : Byte) : State := { s with rampy := v &&& s.params.rampyMask }
def State.setRampz (s : State) (v : Byte) : State := { s with rampz := v &&& s.params.rampzMask }
def State.setEind (s : State) (v : Byte) : State := { s with eind := v &&& s.params.eindMask }

/-- The count an instruction returns, recorded as the cycle debt it sets (R49, R510 (3), R512). -/
def State.charge (s : State) (f : Form) (default : Nat) : State :=
  { s with instructionCycles := s.params.cyclesOf f default }

/-- The end of an instruction that does not write pc: pc advances by the words of the form (R15, R36). -/
def State.retire (s : State) (words : Int) (f : Form) (default : Nat) : State := (s.setPc (s.pc + words)).charge f default

/-- The end of an instruction that writes pc. -/
def State.jump (s : State) (target : Int) (f : Form) (default : Nat) : State := (s.setPc target).charge f default

/-! ## Memories as sorted lists -/

/-- The byte listed at an address, if any. -/
def memGet : Memory → Nat → Option Byte
  | [], _ => none
  | (a, v) :: m, x => if x = a then some v else if x < a then none else memGet m x

/-- The memory with a byte listed at an address. -/
def memSet : Memory → Nat → Byte → Memory
  | [], x, w => [(x, w)]
  | (a, v) :: m, x, w => if x = a then (x, w) :: m else if x < a then (x, w) :: (a, v) :: m else (a, v) :: memSet m x w

/-- The memory with nothing listed at an address. -/
def memErase : Memory → Nat → Memory
  | [], _ => []
  | (a, v) :: m, x => if x = a then m else if x < a then (a, v) :: m else (a, v) :: memErase m x

/-- Strictly rising addresses. -/
def memSorted : Memory → Bool
  | [] => true
  | (a, _) :: m =>
    (match m with
      | [] => true
      | (b, _) :: _ => decide (a < b)) && memSorted m

/-- The canonical form of a memory whose unlisted addresses read as `rest` (none: as no stored value): strictly rising
addresses, and no entry equal to what an unlisted address reads as. -/
def Memory.wf (rest : Option Byte) (m : Memory) : Bool := memSorted m && m.all (fun c => rest != some c.2)

/-! ## Flash (R53, R91) -/

/-- What an unlisted flash byte reads as: erased (R53). -/
def flashErased : Byte := 0xFF

/-- A byte of the flash image. -/
def State.flashAt (s : State) (b : Nat) : Byte := (memGet s.flash b).getD flashErased

/-- `FlashWord(w)` for a word address inside flash (R91): byte 2w is the low byte (R93). -/
def State.flashWord (s : State) (w : Nat) : Word := pairOf (s.flashAt (2 * w + 1)) (s.flashAt (2 * w))

/-- One byte of the flash image written, erased bytes unlisted. -/
def flashPut (m : Memory) (b : Nat) (v : Byte) : Memory := if v = flashErased then memErase m b else memSet m b v

/-- A fetch at a word address, with the range rule of R37. -/
def fetchWord (w : Int) (s : State) : Except Fault Word :=
  if 0 ≤ w ∧ w < s.params.flashWords then .ok (s.flashWord w.toNat) else .error (raise (.fetchOutOfRange w) s)

/-- `FlashByte(b)` with the range rule of R91. -/
def flashByte (b : Nat) (s : State) : Except Fault Byte :=
  if b < s.params.flashSize then
    let w := s.flashWord (b / 2)
    .ok (if b % 2 = 0 then lowByte w else highByte w)
  else .error (raise (.flashReadOutOfRange b) s)

/-! ## SRAM (R54, R85) -/

/-- What an unlisted SRAM byte reads as: its power-on value, which nothing constrains (R54). -/
def sramUnwritten (a : Nat) : Byte := Config.sramPowerOn a

/-- The SRAM byte at a data address. -/
def State.sramAt (s : State) (a : Nat) : Byte := (memGet s.sram a).getD (sramUnwritten a)

def State.setSram (s : State) (a : Nat) (v : Byte) : State := { s with sram := memSet s.sram a v }

/-- Whether a data address lies in internal SRAM (R80). -/
def inSram (p : Params) (a : Nat) : Bool := decide (memSramStart ≤ a) && decide (a < memSramStart + p.sramSize)

/-! ## Clock scales (R451, R455) -/

/-- The A field: PSADIV, bits 6:2 (R451). None for a reserved code. -/
def prescA (psctrl : Byte) : Option Nat :=
  match (psctrl.extractLsb' 2 5).toNat with
  | 0 => some 1
  | 1 => some 2
  | 3 => some 4
  | 5 => some 8
  | 7 => some 16
  | 9 => some 32
  | 11 => some 64
  | 13 => some 128
  | 15 => some 256
  | 17 => some 512
  | _ => none

/-- The B and C fields: PSBCDIV, bits 1:0 (R451). -/
def prescBC (psctrl : Byte) : Nat × Nat :=
  match (psctrl.extractLsb' 0 2).toNat with
  | 0 => (1, 1)
  | 1 => (1, 2)
  | 2 => (4, 1)
  | _ => (2, 2)

/-- `scale_of(domain)`: SYS ticks per domain tick (R455). A reserved A code never stands in PSCTRL (R452) and counts as 1. -/
def scaleOf (psctrl : Byte) (d : Domain) : Nat :=
  let a := (prescA psctrl).getD 1
  let bc := prescBC psctrl
  match d with
  | .sys | .asy => 1
  | .cpu | .per => a * bc.1 * bc.2
  | .per2 => a * bc.1
  | .per4 => a

/-! ## The scheduler (R460 to R469) -/

/-- The order of R462: `(tick, priority, seq)` lexicographically. -/
def Event.before (e f : Event) : Bool :=
  decide (e.tick < f.tick) || (e.tick == f.tick && (decide (e.priority < f.priority) ||
    (e.priority == f.priority && decide (e.seq < f.seq))))

/-- `min heap` (R462). -/
def minEvent : List Event → Option Event
  | [] => none
  | e :: h =>
    match minEvent h with
    | none => some e
    | some f => if e.before f then some e else some f

def State.setSched (s : State) (c : Sched) : State := { s with sched := c }

/-- `schedule` (R464): refused with no ticks, and while a callback runs (R467); ASY is logged (R455). The handle is given. -/
def schedule (domain : Domain) (callback : Callback) (ticks : Nat) (priority : Int) (call : ServiceCall)
    (s : State) : Res Nat :=
  if ticks = 0 then .error (raise (.scheduleZeroTicks domain priority) s)
  else if s.sched.running.isSome then .error (raise (.callbackHeapMutation call) s)
  else
    let s := if domain = .asy then s.record .asyDomain else s
    let scale := scaleOf s.clk.psctrl domain
    let c := s.sched
    let e : Event := ⟨c.nextHandle, domain, callback, priority, (c.currentSysTick / scale + ticks) * scale, scale, c.nextSeq⟩
    .ok (c.nextHandle,
      s.setSched { c with heap := c.heap ++ [e], nextHandle := c.nextHandle + 1, nextSeq := c.nextSeq + 1 })

/-- Whether the handle of a call names the event. The CPU event's handle is given to nobody (R468), so no call names that
event, whatever number it carries (notes/assumptions/32.md). -/
def Event.named (e : Event) (handle : Nat) : Bool := e.callback != .cpuStep && e.handle == handle

/-- `unschedule` (R465, R467). -/
def unschedule (handle : Nat) (s : State) : Act :=
  if s.sched.running.isSome then .error (raise (.callbackHeapMutation (.unschedule handle)) s)
  else if s.sched.heap.any (·.named handle) then
    .ok (s.setSched { s.sched with heap := s.sched.heap.filter (!·.named handle) })
  else .ok (s.record (.unscheduleUnknown handle))

/-- One event re-expressed in the present scale of its domain (R466). -/
def Event.rescale (psctrl : Byte) (now : Nat) (e : Event) : Event :=
  let scale := scaleOf psctrl e.domain
  if scale = e.scale then e
  else { e with tick := now + (e.tick - now + e.scale - 1) / e.scale * scale, scale := scale }

/-- `on_clock_config_change()` (R466): every event of the heap, and the running one. -/
def onClockConfigChange (s : State) : State :=
  let f := Event.rescale s.clk.psctrl s.sched.currentSysTick
  s.setSched { s.sched with heap := s.sched.heap.map f, running := s.sched.running.map f }

/-! ## The interrupt controller (R420 to R434) -/

/-- Interrupt levels (R420). -/
inductive Level where
  | none | lo | med | hi | nmi
  deriving DecidableEq, Repr

/-- The number of a level (R420). -/
def Level.num : Level → Nat
  | .none => 0
  | .lo => 1
  | .med => 2
  | .hi => 3
  | .nmi => 4

/-- The level of a number (R425). -/
def levelOf : Int → Option Level
  | 0 => some .none
  | 1 => some .lo
  | 2 => some .med
  | 3 => some .hi
  | 4 => some .nmi
  | _ => Option.none

/-- The status bit of a level, `1 << (L - 1)` (R420). -/
def Level.statusBit : Level → BitVec 4
  | .none => 0
  | .lo => 1
  | .med => 2
  | .hi => 4
  | .nmi => 8

/-- A pending set with a vector added, kept strictly rising. -/
def ivInsert : List Nat → Nat → List Nat
  | [], x => [x]
  | a :: l, x => if x = a then a :: l else if x < a then x :: a :: l else a :: ivInsert l x

/-- A pending set with a vector removed. -/
def ivRemove (l : List Nat) (x : Nat) : List Nat := l.filter (fun a => a != x)

/-- A vector removed from all four pending sets (R425). -/
def Pmic.withdraw (p : Pmic) (iv : Nat) : Pmic :=
  { p with lo := ivRemove p.lo iv, med := ivRemove p.med iv, hi := ivRemove p.hi iv, nmi := ivRemove p.nmi iv }

/-- A vector added to the set of a level (R425). -/
def Pmic.post (p : Pmic) (iv : Nat) : Level → Pmic
  | .none => p
  | .lo => { p with lo := ivInsert p.lo iv }
  | .med => { p with med := ivInsert p.med iv }
  | .hi => { p with hi := ivInsert p.hi iv }
  | .nmi => { p with nmi := ivInsert p.nmi iv }

def State.setPmic (s : State) (p : Pmic) : State := { s with pmic := p }

/-- `set_iv_level(iv, level)` (R425). The rule gives its arguments no type; they are integers, so that every value it excludes can
be given (DESIGN CHOICE, notes/assumptions/38.md). -/
def setIvLevel (iv level : Int) (s : State) : State :=
  match levelOf level with
  | some l =>
    if 0 ≤ iv ∧ iv < ivMaxCount then s.setPmic ((s.pmic.withdraw iv.toNat).post iv.toNat l)
    else s.record (.invalidIntLevel iv level)
  | Option.none => s.record (.invalidIntLevel iv level)

/-- `current_level()` (R424). -/
def Pmic.currentLevel (p : Pmic) : Level :=
  if p.status.getLsbD 3 then .nmi
  else if p.status.getLsbD 2 then .hi
  else if p.status.getLsbD 1 then .med
  else if p.status.getLsbD 0 then .lo
  else .none

/-- `Arbitrate()` (R426); the lists are rising, so the head is the minimum. -/
def Pmic.arbitrate (p : Pmic) (nmiReentrant : Bool) : Option (Level × Nat) :=
  let cur := p.currentLevel.num
  if !p.nmi.isEmpty && (nmiReentrant || decide (cur < 4)) then p.nmi.head?.map (Level.nmi, ·)
  else if p.ctrl.getLsbD 2 && decide (cur < 3) && !p.hi.isEmpty then p.hi.head?.map (Level.hi, ·)
  else if p.ctrl.getLsbD 1 && decide (cur < 2) && !p.med.isEmpty then p.med.head?.map (Level.med, ·)
  else if p.ctrl.getLsbD 0 && decide (cur < 1) && !p.lo.isEmpty then p.lo.head?.map (Level.lo, ·)
  else Option.none

/-- The vector taken out of the pending set of its level, and the level's status bit set (R431). -/
def Pmic.acknowledge (p : Pmic) (l : Level) (iv : Nat) : Pmic :=
  let p := { p with status := p.status ||| l.statusBit }
  match l with
  | .none => p
  | .lo => { p with lo := ivRemove p.lo iv }
  | .med => { p with med := ivRemove p.med iv }
  | .hi => { p with hi := ivRemove p.hi iv }
  | .nmi => { p with nmi := ivRemove p.nmi iv }

/-! ## External blocks (R410 to R412) -/

/-- The block that owns an I/O address, with its place in the registry (R82, R90). -/
def ioOwnerFrom : List BlockDecl → Nat → Nat → Option (Nat × BlockDecl)
  | [], _, _ => none
  | b :: bs, n, a => if b.ioBase ≤ a ∧ a < b.ioBase + b.ioSize then some (n, b) else ioOwnerFrom bs (n + 1) a

def ioOwner (p : Params) (a : Nat) : Option (Nat × BlockDecl) := ioOwnerFrom p.registry 0 a

/-- The block that owns an interrupt vector (R90, R411). -/
def ivOwnerFrom : List BlockDecl → Nat → Nat → Option (Nat × BlockDecl)
  | [], _, _ => none
  | b :: bs, n, iv => if b.ivBase ≤ iv ∧ iv < b.ivBase + b.ivCount then some (n, b) else ivOwnerFrom bs (n + 1) iv

def ivOwner (p : Params) (iv : Nat) : Option (Nat × BlockDecl) := ivOwnerFrom p.registry 0 iv

/-- The cross-block peeks (R410); which they are and what they hold is the model's choice (notes/assumptions/34.md). -/
def State.peek (s : State) : Peek :=
  ⟨s.clk.psctrl, s.ccpReg, s.ccpIoreg, s.ccpSpm, s.pmic.status, s.sched.nextHandle⟩

def State.extData (s : State) (n : Nat) : List Nat := s.ext.getD n []
def State.setExt (s : State) (n : Nat) (d : List Nat) : State := { s with ext := s.ext.set n d }

/-- One service call of block `owner` (R410, R412, R467). -/
def serve (owner : Nat) (c : ServiceCall) (s : State) : Act :=
  match c with
  | .setIvLevel iv level => .ok (setIvLevel iv level s)
  | .schedule d tag ticks priority => (schedule d (.client owner tag) ticks priority c s).map Prod.snd
  | .unschedule h => unschedule h s

/-- Service calls in order, up to the first that faults. -/
def serveAll (owner : Nat) : List ServiceCall → State → Act
  | [], s => .ok s
  | c :: cs, s => (serve owner c s).bind (serveAll owner cs)

/-- The effect of a hook's answer: the block's next state, then its service calls (none from a block that never calls the
core). -/
def hookReply (n : Nat) (b : BlockDecl) (r : HookReply) (s : State) : Act :=
  if b.callsCore then serveAll n r.calls (s.setExt n r.data) else .ok (s.setExt n r.data)

/-! ## The I/O registers of the blocks in scope -/

/-- A read of the CPU block (R47): CCP (R48), the extension registers, SP (R44), SREG (R42); reserved addresses draw. -/
def cpuRead (a : Nat) (s : State) : Byte × State :=
  match a with
  | 4 => (s.ccpReg, s)
  | 8 => (s.rampd, s)
  | 9 => (s.rampx, s)
  | 10 => (s.rampy, s)
  | 11 => (s.rampz, s)
  | 12 => (s.eind, s)
  | 13 => (lowByte s.sp, s)
  | 14 => (highByte s.sp, s)
  | 15 => (s.sreg, s)
  | _ => drawByte s

/-- A write of CCP: 0x9D and 0xD8 arm their window (R48). -/
def writeCcp (v : Byte) (s : State) : State :=
  { s with
    ccpReg := v
    ccpIoreg := if v = 0x9D then 4 else s.ccpIoreg
    ccpSpm := if v = 0xD8 then 4 else s.ccpSpm }

/-- A write to the CPU block (R47); a write to a reserved address is ignored. -/
def cpuWrite (a : Nat) (v : Byte) (s : State) : State :=
  match a with
  | 4 => writeCcp v s
  | 8 => s.setRampd v
  | 9 => s.setRampx v
  | 10 => s.setRampy v
  | 11 => s.setRampz v
  | 12 => s.setEind v
  | 13 => s.setSp (pairOf (highByte s.sp) v)
  | 14 => s.setSp (pairOf v (lowByte s.sp))
  | 15 => s.setSreg v
  | _ => s

/-- A read of the CLK block (R450). -/
def clkRead (a : Nat) (s : State) : Byte × State :=
  match a with
  | 0 => (s.clk.ctrl, s)
  | 1 => (s.clk.psctrl, s)
  | 2 => (s.clk.lock, s)
  | 3 => (s.clk.rtcctrl, s)
  | _ => drawByte s

def State.setClk (s : State) (c : Clk) : State := { s with clk := c }

/-- Whether the CCP window lets a protected CLK register be written (R441, R453). -/
def State.windowOpen (s : State) : Bool := decide (0 < s.ccpIoreg)

/-- Whether CTRL and PSCTRL accept a write (R453). -/
def State.clkOpen (s : State) : Bool := s.windowOpen && !s.clk.lock.getLsbD 0

/-- An accepted write of PSCTRL (R452): a reserved code is logged and ignored, else the events are rescaled at once. -/
def writePsctrl (v : Byte) (s : State) : State :=
  match prescA v with
  | none => s.record (.clkReservedValue v)
  | some _ => onClockConfigChange (s.setClk { s.clk with psctrl := v &&& 0x7F })

/-- A write to the CLK block (R450, R452 to R454); `a` is the local and `addr` the data address. -/
def clkWrite (a addr : Nat) (v : Byte) (s : State) : State :=
  match a with
  | 0 => if s.clkOpen then s.setClk { s.clk with ctrl := v &&& 0x07 } else s.record (.clkLockedWrite addr)
  | 1 => if s.clkOpen then writePsctrl v s else s.record (.clkLockedWrite addr)
  | 2 => if s.windowOpen then s.setClk { s.clk with lock := s.clk.lock ||| (v &&& 0x01) } else s.record (.clkLockedWrite addr)
  | 3 => s.setClk { s.clk with rtcctrl := v }
  | _ => s

/-- A read of the PMIC block (R421 to R423). -/
def pmicRead (a : Nat) (s : State) : Byte :=
  match a with
  | 0 => s.pmic.status.setWidth 8
  | 1 => s.pmic.intpri
  | _ => s.pmic.ctrl

/-- A write to the PMIC block (R422, R423): STATUS is read-only. -/
def pmicWrite (a addr : Nat) (v : Byte) (s : State) : State :=
  match a with
  | 0 => s.record (.readOnlyWrite addr)
  | 1 => s.setPmic { s.pmic with intpri := v }
  | _ => s.setPmic { s.pmic with ctrl := v }

/-- The reference GPIOR: 16 bytes (R410). -/
def State.gpiorAt (s : State) (a : Nat) : Byte := s.gpior[Fin.ofNat 16 a]
def State.setGpior (s : State) (a : Nat) (v : Byte) : State := { s with gpior := s.gpior.set (Fin.ofNat 16 a) v }

/-! ## The data-space router (R82 to R88) -/

/-- `get_io(a)` of the block `b` at place `n` of the registry (R410); `a` is a local address. -/
def blockGetIo (n : Nat) (b : BlockDecl) (a : Nat) (s : State) : Res Byte :=
  match b.kind with
  | .cpu => .ok (cpuRead a s)
  | .clk => .ok (clkRead a s)
  | .pmic => .ok (pmicRead a s, s)
  | .gpior => .ok (s.gpiorAt a, s)
  | .external =>
    let r := Config.extGetIo n (s.extData n) a s.peek
    (hookReply n b r s).map (r.value, ·)

/-- `set_io(a, v)` of the block `b` at place `n` (R410). -/
def blockSetIo (n : Nat) (b : BlockDecl) (a : Nat) (v : Byte) (s : State) : Act :=
  match b.kind with
  | .cpu => .ok (cpuWrite a v s)
  | .clk => .ok (clkWrite a (b.ioBase + a) v s)
  | .pmic => .ok (pmicWrite a (b.ioBase + a) v s)
  | .gpior => .ok (s.setGpior a v)
  | .external => hookReply n b (Config.extSetIo n (s.extData n) a v s.peek) s

/-- `execute_iv(iv)` of the block `b` at place `n` (R410, R411); `iv` is a local vector. The blocks in scope own none (R436). -/
def blockExecuteIv (n : Nat) (b : BlockDecl) (iv : Nat) (s : State) : Act :=
  match b.kind with
  | .external => hookReply n b (Config.extExecuteIv n (s.extData n) iv s.peek) s
  | _ => .ok s

/-- `IoRead` (R82). -/
def ioRead (a : Nat) (s : State) : Res Byte :=
  match ioOwner s.params a with
  | none => .ok (0, s.record (.ioNoBlock a))
  | some (n, b) => blockGetIo n b (a - b.ioBase) s

/-- `IoWrite` (R82). -/
def ioWrite (a : Nat) (v : Byte) (s : State) : Act :=
  match ioOwner s.params a with
  | none => .ok (s.record (.ioNoBlock a))
  | some (n, b) => blockSetIo n b (a - b.ioBase) v s

/-- The regions of the data space (R80). -/
inductive Region where
  | io | eeprom | sram | emulator | exsram | unmapped
  deriving DecidableEq, Repr

/-- The first region that contains an address, in the order of R81. -/
def regionOf (p : Params) (a : Nat) : Region :=
  if a < memIoSize then .io
  else if memEepromStart ≤ a ∧ a < memEepromStart + p.eepromSize then .eeprom
  else if inSram p a then .sram
  else if memEmulatorStart ≤ a ∧ a < memEmulatorStart + memEmulatorSize then .emulator
  else if 0 < p.exsramSize ∧ p.exsramStart ≤ a ∧ a < p.exsramStart + p.exsramSize then .exsram
  else .unmapped

/-- `EmuRead(k)` (R87): the four bytes of `clk_sys_tick`, then reserved offsets. -/
def emuRead (k : Nat) (s : State) : Byte × State :=
  if k < 4 then (BitVec.ofNat 8 (s.sched.currentSysTick >>> (8 * k)), s) else drawByte s

/-- `MemRead(addr, 1)` (R83). -/
def memRead (addr : DataAddr) (s : State) : Res Byte :=
  let a := addr.toNat
  match regionOf s.params a with
  | .io => ioRead a s
  | .eeprom => .ok (drawByte (s.record (.eepromStub a)))
  | .sram => .ok (s.sramAt a, s)
  | .emulator => .ok (emuRead (a - memEmulatorStart) s)
  | .exsram => .ok (drawByte (s.record (.exsramStub a)))
  | .unmapped => .ok (0, s.record (.unmapped a))

/-- `MemWrite(addr, 1, v)` (R84). -/
def memWrite (addr : DataAddr) (v : Byte) (s : State) : Act :=
  let a := addr.toNat
  match regionOf s.params a with
  | .io => ioWrite a v s
  | .eeprom => .ok (s.record (.eepromStub a))
  | .sram => .ok (s.setSram a v)
  | .emulator => .ok (s.record (.readOnlyWrite a))
  | .exsram => .ok (s.record (.exsramStub a))
  | .unmapped => .ok (s.record (.unmapped a))

/-! ## The stack (R94, R95) -/

/-- SP, or any 16-bit address, as a data address. -/
def dataAddr (a : Word) : DataAddr := a.setWidth 24

/-- `Push8` (R95). -/
def push8 (v : Byte) (s : State) : Act :=
  if inSram s.params s.sp.toNat then (memWrite (dataAddr s.sp) v s).map (fun s => s.setSp (s.sp - 1))
  else .error (raise (.stackOutsideSram s.sp.toNat) s)

/-- `Pop8` (R95): SP is incremented before the check. -/
def pop8 (s : State) : Res Byte :=
  let s := s.setSp (s.sp + 1)
  if inSram s.params s.sp.toNat then memRead (dataAddr s.sp) s else .error (raise (.stackOutsideSram s.sp.toNat) s)

/-- `PushPC(v)` (R94): least significant byte first, two or three bytes. -/
def pushPc (v : Int) (s : State) : Act := do
  let b := BitVec.ofInt 24 v
  let s ← push8 (b.extractLsb' 0 8) s
  let s ← push8 (b.extractLsb' 8 8) s
  if s.params.bigPc then push8 (b.extractLsb' 16 8) s else .ok s

/-- `PopPC()` (R94). -/
def popPc (s : State) : Except Fault (Int × State) := do
  let (h, s) ← if s.params.bigPc then pop8 s else .ok (0, s)
  let (m, s) ← pop8 s
  let (l, s) ← pop8 s
  return (((h ++ (m ++ l) : DataAddr).toNat : Int), s)

/-! ## Taking an interrupt and returning from one (R430 to R434) -/

/-- The vector of an interrupt (R99, R431). -/
def vectorOf (s : State) (iv : Nat) : Nat := 2 * iv + (if s.pmic.ctrl.getLsbD 6 then s.params.bootStartWords else 0)

/-- `execute_iv` of the block that owns a vector, if any (R411, D39). -/
def executeIv (iv : Nat) (s : State) : Act :=
  match ivOwner s.params iv with
  | some (n, b) => blockExecuteIv n b (iv - b.ivBase) s
  | none => .ok s

/-- `Dispatch(L, iv)` (R431): the one taking of an exception of this machine. The pending bit is taken, the level marked in
service, pc pushed and redirected, the owner told, five cycles charged. SREG is not changed. -/
def dispatch (l : Level) (iv : Nat) (s : State) : Act := do
  let s := s.setPmic (s.pmic.acknowledge l iv)
  let vec := vectorOf s iv
  let s ← pushPc s.pc s
  let s ← executeIv iv (s.setPc vec)
  return { s with instructionCycles := 5, interruptWait := true }

/-- The conditions under which a CPU step attempts dispatch (R430). -/
def State.dispatchable (s : State) : Bool :=
  s.instructionCycles == 0 && !s.interruptWait && flagI s.sreg && s.ccpIoreg == 0 && s.ccpSpm == 0

/-- Step (2) of the CPU step (R510): dispatch, if the conditions hold and arbitration finds a vector. -/
def tryDispatch (s : State) : Act :=
  if s.dispatchable then
    match s.pmic.arbitrate s.params.nmiReentrant with
    | some (l, iv) => dispatch l iv s
    | none => .ok s
  else .ok s

/-- RETI's level clear (R434): the highest status bit, or a critical log when none is set. -/
def pmicRetiClear (s : State) : State :=
  match s.pmic.currentLevel with
  | .none => s.record (.retiNoActiveLevel s.pc)
  | l => s.setPmic { s.pmic with status := s.pmic.status &&& ~~~l.statusBit }

/-- Returning from an interrupt (R350): the level clear, then the return address. SREG is not changed. -/
def interruptReturn (s : State) : Except Fault (Int × State) := popPc (pmicRetiClear s)

/-! ## The CCP count-down (R440) -/

/-- Both windows count down at the start of a CPU step. -/
def ccpCountDown (s : State) : State := { s with ccpIoreg := s.ccpIoreg - 1, ccpSpm := s.ccpSpm - 1 }

end Sys2Proof.Machine
end

