-- ==== Sys2Proof/Machine/Operands.lean ====
section
/-! DEFINITION. Operand forms: pointers and their updates (46_load_store.md R280 to R282), direct addresses, I/O addresses,
relative targets, skips (49_stack_skip_misc.md R380), and how an operation's answer ends an instruction. -/

namespace Sys2Proof.Machine

open Sys2Proof

/-! ## Ending an instruction -/

/-- An operation's answer followed by the end of the instruction, or its fault. -/
def finish (r : Act) (last : State → State) : Result :=
  match r with
  | .ok s => .next (last s)
  | .error f => .fault f

/-! ## Pointers (R280) -/

/-- The pointer registers. -/
inductive Ptr where
  | x | y | z
  deriving DecidableEq, Repr

/-- The low register of a pointer (R13, R32). -/
def Ptr.lo : Ptr → Reg
  | .x => 26
  | .y => 28
  | .z => 30

/-- Whether a data register is one of the pointer's two (R282). -/
def Ptr.overlaps (p : Ptr) (r : Reg) : Bool := r == p.lo || r == p.lo + 1

/-- `P16`. -/
def State.ptr (s : State) (p : Ptr) : Word := s.pair p.lo

/-- `RAMP_P`. -/
def State.ramp (s : State) : Ptr → Byte
  | .x => s.rampx
  | .y => s.rampy
  | .z => s.rampz

/-- `RAMP_P <- v & mask_P`. -/
def State.setRamp (s : State) (p : Ptr) (v : Byte) : State :=
  match p with
  | .x => s.setRampx v
  | .y => s.setRampy v
  | .z => s.setRampz v

/-- `Full(P)`: the 24-bit address (R280). -/
def State.full (s : State) (p : Ptr) : DataAddr := s.ramp p ++ s.ptr p

/-- `SetFull(P, v)` (R280). -/
def State.setFull (s : State) (p : Ptr) (v : DataAddr) : State :=
  (s.setPair p.lo (v.extractLsb' 0 16)).setRamp p (v.extractLsb' 16 8)

/-- `Full(P) + q` modulo 2^24 (R280, R291). -/
def State.displaced (s : State) (p : Ptr) (q : BitVec 6) : DataAddr := s.full p + q.setWidth 24

/-- The direct address of LDS and STS (R280, R283). -/
def State.direct (s : State) (k : Word) : DataAddr := s.rampd ++ k

/-- The data address of an I/O address: itself (R92). -/
def ioAddr {n : Nat} (a : BitVec n) : DataAddr := a.setWidth 24

/-! ## Overlap forms (R282) -/

/-- The critical log of an overlap form, before anything else the instruction does (R282, R405). -/
def logOverlap (p : Ptr) (r : Reg) (i : Instr) (s : State) : State :=
  if p.overlaps r then s.record (.undefinedPointerOverlap s.pc (firstWord i)) else s

/-- Both bytes of a pointer become free values. -/
def drawPair (p : Ptr) (s : State) : State :=
  let (lo, s) := drawByte s
  let (hi, s) := drawByte s
  (s.setReg p.lo lo).setReg (p.lo + 1) hi

/-- The extension register of a pointer becomes a free value within its mask. -/
def drawRamp (p : Ptr) (s : State) : State :=
  let (v, s) := drawByte s
  s.setRamp p v

/-- What an overlapping load leaves in the pointer: free bytes, and a free extension register (R282). -/
def spoilLoad (p : Ptr) (r : Reg) (s : State) : State := if p.overlaps r then drawRamp p (drawPair p s) else s

/-- The byte a store writes: a free value when it overlaps the pointer (R282). -/
def storeByte (p : Ptr) (r : Reg) (s : State) : Byte × State := if p.overlaps r then drawByte s else (s.reg r, s)

/-! ## Loads and stores -/

/-- A load from a data address into a register. -/
def loadAt (addr : DataAddr) (d : Reg) (s : State) : Act := (memRead addr s).map (fun p => p.2.setReg d p.1)

/-- Load, then increment the pointer (R281, R286). -/
def loadInc (p : Ptr) (d : Reg) (i : Instr) (s : State) : Act :=
  let s := logOverlap p d i s
  let ea := s.full p
  (loadAt ea d s).map (fun s => spoilLoad p d (s.setFull p (ea + 1)))

/-- Decrement the pointer, then load (R281, R287). -/
def loadDec (p : Ptr) (d : Reg) (i : Instr) (s : State) : Act :=
  let s := logOverlap p d i s
  let s := s.setFull p (s.full p - 1)
  (loadAt (s.full p) d s).map (spoilLoad p d)

/-- Store, then increment the pointer (R281, R297). -/
def storeInc (p : Ptr) (r : Reg) (i : Instr) (s : State) : Act :=
  let s := logOverlap p r i s
  let ea := s.full p
  let (v, s) := storeByte p r s
  (memWrite ea v s).map (fun s => s.setFull p (ea + 1))

/-- Decrement the pointer, then store; the byte is the register's after the update, which no overlap-free form sees (R281,
R298). -/
def storeDec (p : Ptr) (r : Reg) (i : Instr) (s : State) : Act :=
  let s := logOverlap p r i s
  let s := s.setFull p (s.full p - 1)
  let (v, s) := storeByte p r s
  memWrite (s.full p) v s

/-- The atomic read-modify-write on the byte at `Full(Z)` (R313 to R316): `f` gives the byte written from the register and
the byte read. -/
def exchange (f : Byte → Byte → Byte) (d : Reg) (s : State) : Act := do
  let ea := s.full .z
  let (t, s) ← memRead ea s
  let s ← memWrite ea (f (s.reg d) t) s
  return s.setReg d t

/-- A read-modify-write of an I/O register (R333, R334). -/
def ioModify (f : Byte → Byte) (a : BitVec 5) (s : State) : Act := do
  let (v, s) ← memRead (ioAddr a) s
  memWrite (ioAddr a) (f v) s

/-! ## Program memory (R307 to R312) -/

/-- A flash byte into a register. -/
def loadFlash (b : Nat) (d : Reg) (s : State) : Act := (flashByte b s).map (s.setReg d)

/-! ## Control flow -/

/-- `pc + 1 + k` (R342, R351). -/
def State.relative (s : State) {n : Nat} (k : BitVec n) : Int := s.pc + 1 + k.toInt

/-- The target of EIJMP and EICALL, `(EIND << 16) | Z` (R344). -/
def State.extendedZ (s : State) : Nat := (s.eind ++ s.ptr .z : DataAddr).toNat

/-- A call: the return address pushed, then pc written (R345 to R348). -/
def callTo (ret target : Int) (f : Form) (default : Nat) (s : State) : Result :=
  finish (pushPc ret s) (fun s => s.jump target f default)

/-- A return whose popped address becomes pc (R349, R350). -/
def returnWith (r : Except Fault (Int × State)) (f : Form) (default : Nat) : Result :=
  match r with
  | .ok (pc, s) => .next (s.jump pc f default)
  | .error e => .fault e

/-- A two-valued cycle count `a / b`: `a` on a small flash, `b` with a 3-byte pc (R340). -/
def State.bySize (s : State) (a b : Nat) : Nat := if s.params.bigPc then b else a

/-- The skip mechanism (R380): the next word is read only when the condition holds. -/
def skipIf (cond : Bool) (f : Form) (s : State) : Result :=
  if cond then
    match fetchWord (s.pc + 1) s with
    | .ok w => if isLong w then .next (s.retire 3 f 3) else .next (s.retire 2 f 2)
    | .error e => .fault e
  else .next (s.retire 1 f 1)

/-- A skip on a bit of an I/O register (R384, R385). -/
def skipOnIo (a : BitVec 5) (cond : Byte → Bool) (f : Form) (s : State) : Result :=
  match memRead (ioAddr a) s with
  | .ok (v, s) => skipIf (cond v) f s
  | .error e => .fault e

/-- A branch on one SREG bit (R351, R352). -/
def branchIf (cond : Bool) (k : BitVec 7) (f : Form) (s : State) : Result :=
  if cond then .next (s.jump (s.relative k) f 2) else .next (s.retire 1 f 1)

end Sys2Proof.Machine
end

