-- ==== Sys2Proof/Machine/Atomic.lean ====
section
/-! DEFINITION. Atomic read-modify-write on the byte at Full(Z) (46_load_store.md R313 to R316). -/

namespace Sys2Proof.Machine

open Sys2Proof

/-- XCH Z, Rd (R313). -/
def execXch (d : Reg) (s : State) : Result := finish (exchange (fun r _ => r) d s) (·.retire 1 .xch 2)

/-- LAS Z, Rd (R314). -/
def execLas (d : Reg) (s : State) : Result := finish (exchange (fun r t => r ||| t) d s) (·.retire 1 .las 2)

/-- LAC Z, Rd (R315). -/
def execLac (d : Reg) (s : State) : Result := finish (exchange (fun r t => (0xFF - r) &&& t) d s) (·.retire 1 .lac 2)

/-- LAT Z, Rd (R316). -/
def execLat (d : Reg) (s : State) : Result := finish (exchange (fun r t => r ^^^ t) d s) (·.retire 1 .lat 2)

end Sys2Proof.Machine
end

