-- ==== Sys2Proof/Machine/ControlFlow.lean ====
section
/-! DEFINITION. Jumps, calls, returns and branches (48_control_flow.md). A target is checked at the next fetch only. -/

namespace Sys2Proof.Machine

open Sys2Proof

/-- The fallback of EIJMP and EICALL on a small flash: a log, pc + 1, one cycle (R344, R348, D13). -/
def eindFallback (f : Form) (s : State) : Result := .next ((s.record (.eindOnSmallFlash s.pc)).retire 1 f 1)

/-- JMP k (R341). -/
def execJmp (k : BitVec 22) (s : State) : Result := .next (s.jump k.toNat .jmp 3)

/-- RJMP k (R342). -/
def execRjmp (k : BitVec 12) (s : State) : Result := .next (s.jump (s.relative k) .rjmp 2)

/-- IJMP (R343). -/
def execIjmp (s : State) : Result := .next (s.jump (s.ptr .z).toNat .ijmp 2)

/-- EIJMP (R344). -/
def execEijmp (s : State) : Result :=
  if s.params.bigPc then .next (s.jump s.extendedZ .eijmp 2) else eindFallback .eijmp s

/-- CALL k (R345). -/
def execCall (k : BitVec 22) (s : State) : Result := callTo (s.pc + 2) k.toNat .call (s.bySize 3 4) s

/-- RCALL k (R346). -/
def execRcall (k : BitVec 12) (s : State) : Result := callTo (s.pc + 1) (s.relative k) .rcall (s.bySize 2 3) s

/-- ICALL (R347). -/
def execIcall (s : State) : Result := callTo (s.pc + 1) (s.ptr .z).toNat .icall (s.bySize 2 3) s

/-- EICALL (R348). -/
def execEicall (s : State) : Result :=
  if s.params.bigPc then callTo (s.pc + 1) s.extendedZ .eicall 3 s else eindFallback .eicall s

/-- RET (R349). -/
def execRet (s : State) : Result := returnWith (popPc s) .ret (s.bySize 4 5)

/-- RETI (R350): the level clear, then the return; I is not set. -/
def execReti (s : State) : Result := returnWith (interruptReturn s) .reti (s.bySize 4 5)

/-- BRBS s, k (R351). -/
def execBrbs (f : Bit) (k : BitVec 7) (s : State) : Result := branchIf (flag s.sreg f.val) k .brbs s

/-- BRBC s, k (R352). -/
def execBrbc (f : Bit) (k : BitVec 7) (s : State) : Result := branchIf (!flag s.sreg f.val) k .brbc s

end Sys2Proof.Machine
end

