-- ==== Sys2Proof/Machine/Binary.lean ====
section
/-! DEFINITION. Two-register arithmetic and logic (42_binary.md), and the operations the immediate forms share. -/

namespace Sys2Proof.Machine

open Sys2Proof

/-- Rd and SREG written, pc + 1, one cycle. -/
def writeBoth (d : Reg) (res sreg : Byte) (f : Form) (s : State) : Result :=
  .next (((s.setReg d res).setSreg sreg).retire 1 f 1)

/-- SREG written, no register (CP, CPC, CPI). -/
def writeSreg (sreg : Byte) (f : Form) (s : State) : Result := .next ((s.setSreg sreg).retire 1 f 1)

/-- `u8(a + b + cin)`. -/
def addBytes (a b : Byte) (cin : Bool) : Byte := a + b + carryByte cin

/-- `u8(a - b - cin)`. -/
def subBytes (a b : Byte) (cin : Bool) : Byte := a - b - carryByte cin

/-- Rd plus a byte plus a carry-in, with AddFlags (R231). -/
def addInto (d : Reg) (b : Byte) (cin : Bool) (f : Form) (s : State) : Result :=
  let a := s.reg d
  let res := addBytes a b cin
  writeBoth d res (addFlags s.sreg a b res) f s

/-- Rd minus a byte minus a borrow-in, with SubFlags (R232). -/
def subInto (d : Reg) (b : Byte) (cin keepZ : Bool) (f : Form) (s : State) : Result :=
  let a := s.reg d
  let res := subBytes a b cin
  writeBoth d res (subFlags s.sreg a b res keepZ) f s

/-- As `subInto`, with no register written. -/
def compareWith (d : Reg) (b : Byte) (cin keepZ : Bool) (f : Form) (s : State) : Result :=
  let a := s.reg d
  writeSreg (subFlags s.sreg a b (subBytes a b cin) keepZ) f s

/-- A logic result into Rd, with the logic flags (R237). -/
def logicInto (d : Reg) (res : Byte) (f : Form) (s : State) : Result := writeBoth d res (logicFlags s.sreg res) f s

/-- ADD Rd, Rr (R233). -/
def execAdd (d r : Reg) (s : State) : Result := addInto d (s.reg r) false .add s

/-- ADC Rd, Rr (R234). -/
def execAdc (d r : Reg) (s : State) : Result := addInto d (s.reg r) (flagC s.sreg) .adc s

/-- SUB Rd, Rr (R235). -/
def execSub (d r : Reg) (s : State) : Result := subInto d (s.reg r) false false .sub s

/-- SBC Rd, Rr (R236). -/
def execSbc (d r : Reg) (s : State) : Result := subInto d (s.reg r) (flagC s.sreg) true .sbc s

/-- AND Rd, Rr (R237). -/
def execAnd (d r : Reg) (s : State) : Result := logicInto d (s.reg d &&& s.reg r) .and s

/-- OR Rd, Rr (R238). -/
def execOr (d r : Reg) (s : State) : Result := logicInto d (s.reg d ||| s.reg r) .or s

/-- EOR Rd, Rr (R239). -/
def execEor (d r : Reg) (s : State) : Result := logicInto d (s.reg d ^^^ s.reg r) .eor s

/-- MOV Rd, Rr (R240). -/
def execMov (d r : Reg) (s : State) : Result := .next ((s.setReg d (s.reg r)).retire 1 .mov 1)

/-- CP Rd, Rr (R241). -/
def execCp (d r : Reg) (s : State) : Result := compareWith d (s.reg r) false false .cp s

/-- CPC Rd, Rr (R242). -/
def execCpc (d r : Reg) (s : State) : Result := compareWith d (s.reg r) (flagC s.sreg) true .cpc s

end Sys2Proof.Machine
end

