-- ==== Sys2Proof/Machine/Immediate.lean ====
section
/-! DEFINITION. Register-immediate operations (44_immediate.md). -/

namespace Sys2Proof.Machine

open Sys2Proof

/-- CPI Rd, K (R261). -/
def execCpi (d : Reg) (k : Byte) (s : State) : Result := compareWith d k false false .cpi s

/-- SUBI Rd, K (R262). -/
def execSubi (d : Reg) (k : Byte) (s : State) : Result := subInto d k false false .subi s

/-- SBCI Rd, K (R263). -/
def execSbci (d : Reg) (k : Byte) (s : State) : Result := subInto d k (flagC s.sreg) true .sbci s

/-- ANDI Rd, K (R264). -/
def execAndi (d : Reg) (k : Byte) (s : State) : Result := logicInto d (s.reg d &&& k) .andi s

/-- ORI Rd, K (R265). -/
def execOri (d : Reg) (k : Byte) (s : State) : Result := logicInto d (s.reg d ||| k) .ori s

/-- LDI Rd, K (R266). -/
def execLdi (d : Reg) (k : Byte) (s : State) : Result := .next ((s.setReg d k).retire 1 .ldi 1)

end Sys2Proof.Machine
end

