-- ==== Sys2Proof/Machine/Io.lean ====
section
/-! DEFINITION. I/O instructions (47_io.md). -/

namespace Sys2Proof.Machine

open Sys2Proof

/-- IN Rd, A (R331). -/
def execInp (d : Reg) (a : BitVec 6) (s : State) : Result := finish (loadAt (ioAddr a) d s) (·.retire 1 .inp 1)

/-- OUT A, Rr (R332). -/
def execOutp (a : BitVec 6) (r : Reg) (s : State) : Result :=
  finish (memWrite (ioAddr a) (s.reg r) s) (·.retire 1 .outp 1)

/-- SBI A, b (R333). -/
def execSbi (a : BitVec 5) (b : Bit) (s : State) : Result := finish (ioModify (putFlag · b true) a s) (·.retire 1 .sbi 1)

/-- CBI A, b (R334). -/
def execCbi (a : BitVec 5) (b : Bit) (s : State) : Result := finish (ioModify (putFlag · b false) a s) (·.retire 1 .cbi 1)

end Sys2Proof.Machine
end

