-- ==== Sys2Proof/Machine/Load.lean ====
section
/-! DEFINITION. Loads from the data space (46_load_store.md R283 to R295). -/

namespace Sys2Proof.Machine

open Sys2Proof

/-- LDS Rd, k (R283). -/
def execLds (d : Reg) (k : Word) (s : State) : Result :=
  finish (loadAt (s.direct k) d s) (·.retire 2 .lds 2)

/-- LD Rd, X (R285). -/
def execLdX (d : Reg) (s : State) : Result := finish (loadAt (s.full .x) d s) (·.retire 1 .ldX 1)

/-- LD Rd, X+ (R286). -/
def execLdXInc (d : Reg) (s : State) : Result :=
  finish (loadInc .x d (.ldXInc d) s) (·.retire 1 .ldXInc 1)

/-- LD Rd, -X (R287). -/
def execLdXDec (d : Reg) (s : State) : Result :=
  finish (loadDec .x d (.ldXDec d) s) (·.retire 1 .ldXDec 2)

/-- LD Rd, Y (R288). -/
def execLdY (d : Reg) (s : State) : Result := finish (loadAt (s.full .y) d s) (·.retire 1 .ldY 1)

/-- LD Rd, Y+ (R289). -/
def execLdYInc (d : Reg) (s : State) : Result :=
  finish (loadInc .y d (.ldYInc d) s) (·.retire 1 .ldYInc 1)

/-- LD Rd, -Y (R290). -/
def execLdYDec (d : Reg) (s : State) : Result :=
  finish (loadDec .y d (.ldYDec d) s) (·.retire 1 .ldYDec 2)

/-- LDD Rd, Y+q (R291). -/
def execLddY (d : Reg) (q : BitVec 6) (s : State) : Result :=
  finish (loadAt (s.displaced .y q) d s) (·.retire 1 .lddY 2)

/-- LD Rd, Z (R292). -/
def execLdZ (d : Reg) (s : State) : Result := finish (loadAt (s.full .z) d s) (·.retire 1 .ldZ 1)

/-- LD Rd, Z+ (R293). -/
def execLdZInc (d : Reg) (s : State) : Result :=
  finish (loadInc .z d (.ldZInc d) s) (·.retire 1 .ldZInc 1)

/-- LD Rd, -Z (R294). -/
def execLdZDec (d : Reg) (s : State) : Result :=
  finish (loadDec .z d (.ldZDec d) s) (·.retire 1 .ldZDec 2)

/-- LDD Rd, Z+q (R295). -/
def execLddZ (d : Reg) (q : BitVec 6) (s : State) : Result :=
  finish (loadAt (s.displaced .z q) d s) (·.retire 1 .lddZ 2)

end Sys2Proof.Machine
end

