-- ==== Sys2Proof/Machine/Misc.lean ====
section
/-! DEFINITION. NOP, BREAK, the stubs and the unknown opcode (49_stack_skip_misc.md sections 3 and 4). A stub changes nothing
but pc and returns one cycle (R393, D40). -/

namespace Sys2Proof.Machine

open Sys2Proof

/-- NOP (R390). -/
def execNop (s : State) : Result := .next (s.retire 1 .nop 1)

/-- SLEEP, a stub (R391). -/
def execSleep (s : State) : Result := .next (s.retire 1 .sleep 1)

/-- WDR, a stub (R392). -/
def execWdr (s : State) : Result := .next (s.retire 1 .wdr 1)

/-- BREAK (R394): the flag the host sees between steps. -/
def execBrk (s : State) : Result := .next ({ s with breaked := true }.retire 1 .brk 1)

/-- DES K, a stub (R396): K has no effect. -/
def execDes (_k : BitVec 4) (s : State) : Result := .next (s.retire 1 .des 1)

/-- SPM, a stub (R397). -/
def execSpm (s : State) : Result := .next (s.retire 1 .spm 1)

/-- SPM Z+, a stub (R398): Z and RAMPZ are kept. -/
def execSpmZInc (s : State) : Result := .next (s.retire 1 .spmZInc 1)

/-- An unknown opcode (R399): a log, pc + 1, one cycle. -/
def execUnknown (op : Word) (s : State) : Result :=
  .next ((s.record (.unknownOpcode s.pc op)).retire 1 .unknown 1)

end Sys2Proof.Machine
end

