-- ==== Sys2Proof/Machine/Multiply.lean ====
section
/-! DEFINITION. The multiplies (43_multiply.md): products are computed exactly and then taken modulo 2^16. -/

namespace Sys2Proof.Machine

open Sys2Proof

/-- `u16` of an exact product. -/
def product (x y : Int) : Word := BitVec.ofInt 16 (x * y)

/-- The product, or the product shifted left by one, into r1:r0, with the multiply flags (R250). -/
def multiply (p res : Word) (f : Form) (s : State) : Result :=
  .next (((s.setPair 0 res).setSreg (mulFlags s.sreg p res)).retire 1 f 2)

/-- MUL Rd, Rr (R251). -/
def execMul (d r : Reg) (s : State) : Result :=
  let p := product (s.reg d).toNat (s.reg r).toNat
  multiply p p .mul s

/-- MULS Rd, Rr (R252). -/
def execMuls (d r : Reg) (s : State) : Result :=
  let p := product (s.reg d).toInt (s.reg r).toInt
  multiply p p .muls s

/-- MULSU Rd, Rr (R253). -/
def execMulsu (d r : Reg) (s : State) : Result :=
  let p := product (s.reg d).toInt (s.reg r).toNat
  multiply p p .mulsu s

/-- FMUL Rd, Rr (R254). -/
def execFmul (d r : Reg) (s : State) : Result :=
  let p := product (s.reg d).toNat (s.reg r).toNat
  multiply p (p <<< 1) .fmul s

/-- FMULS Rd, Rr (R255). -/
def execFmuls (d r : Reg) (s : State) : Result :=
  let p := product (s.reg d).toInt (s.reg r).toInt
  multiply p (p <<< 1) .fmuls s

/-- FMULSU Rd, Rr (R256). -/
def execFmulsu (d r : Reg) (s : State) : Result :=
  let p := product (s.reg d).toInt (s.reg r).toNat
  multiply p (p <<< 1) .fmulsu s

end Sys2Proof.Machine
end

