-- ==== Sys2Proof/Machine/ProgramMemory.lean ====
section
/-! DEFINITION. Program-memory reads (46_load_store.md R307 to R312). LPM uses Z alone, ELPM the 24-bit Full(Z). -/

namespace Sys2Proof.Machine

open Sys2Proof

/-- LPM (R307). -/
def execLpmR0 (s : State) : Result := finish (loadFlash (s.ptr .z).toNat 0 s) (·.retire 1 .lpmR0 3)

/-- LPM Rd, Z (R308). -/
def execLpmZ (d : Reg) (s : State) : Result := finish (loadFlash (s.ptr .z).toNat d s) (·.retire 1 .lpmZ 3)

/-- LPM Rd, Z+ (R309): Z alone is incremented, RAMPZ kept; an overlap form leaves both bytes of Z free (R282). -/
def execLpmZInc (d : Reg) (s : State) : Result :=
  let s := logOverlap .z d (.lpmZInc d) s
  let z := s.ptr .z
  finish (loadFlash z.toNat d s) (fun s =>
    let s := s.setPair 30 (z + 1)
    (if Ptr.z.overlaps d then drawPair .z s else s).retire 1 .lpmZInc 3)

/-- ELPM (R310). -/
def execElpmR0 (s : State) : Result := finish (loadFlash (s.full .z).toNat 0 s) (·.retire 1 .elpmR0 3)

/-- ELPM Rd, Z (R311). -/
def execElpmZ (d : Reg) (s : State) : Result := finish (loadFlash (s.full .z).toNat d s) (·.retire 1 .elpmZ 3)

/-- ELPM Rd, Z+ (R312): the increment carries into RAMPZ; overlap forms as for LD (R282). -/
def execElpmZInc (d : Reg) (s : State) : Result :=
  let s := logOverlap .z d (.elpmZInc d) s
  let ea := s.full .z
  finish (loadFlash ea.toNat d s) (fun s => (spoilLoad .z d (s.setFull .z (ea + 1))).retire 1 .elpmZInc 3)

end Sys2Proof.Machine
end

