-- ==== Sys2Proof/Machine/Skips.lean ====
section
/-! DEFINITION. Skips (49_stack_skip_misc.md section 2). -/

namespace Sys2Proof.Machine

open Sys2Proof

/-- CPSE Rd, Rr (R381). -/
def execCpse (d r : Reg) (s : State) : Result := skipIf (s.reg d == s.reg r) .cpse s

/-- SBRC Rr, b (R382). -/
def execSbrc (r : Reg) (b : Bit) (s : State) : Result := skipIf (!bit (s.reg r) b.val) .sbrc s

/-- SBRS Rr, b (R383). -/
def execSbrs (r : Reg) (b : Bit) (s : State) : Result := skipIf (bit (s.reg r) b.val) .sbrs s

/-- SBIC A, b (R384). -/
def execSbic (a : BitVec 5) (b : Bit) (s : State) : Result := skipOnIo a (fun v => !bit v b.val) .sbic s

/-- SBIS A, b (R385). -/
def execSbis (a : BitVec 5) (b : Bit) (s : State) : Result := skipOnIo a (fun v => bit v b.val) .sbis s

end Sys2Proof.Machine
end

