-- ==== Sys2Proof/Machine/SregBits.lean ====
section
/-! DEFINITION. Bit operations on SREG and registers (40_sreg_bits.md). -/

namespace Sys2Proof.Machine

open Sys2Proof

/-- BSET s (R201). -/
def execBset (f : Bit) (s : State) : Result := .next ((s.setSreg (putFlag s.sreg f true)).retire 1 .bset 1)

/-- BCLR s (R202). -/
def execBclr (f : Bit) (s : State) : Result := .next ((s.setSreg (putFlag s.sreg f false)).retire 1 .bclr 1)

/-- BST Rd, b (R203). -/
def execBst (d : Reg) (b : Bit) (s : State) : Result :=
  .next ((s.setSreg (putFlag s.sreg 6 (bit (s.reg d) b.val))).retire 1 .bst 1)

/-- BLD Rd, b (R204). -/
def execBld (d : Reg) (b : Bit) (s : State) : Result :=
  .next ((s.setReg d (putFlag (s.reg d) b (flagT s.sreg))).retire 1 .bld 1)

end Sys2Proof.Machine
end

