-- ==== Sys2Proof/Machine/Stack.lean ====
section
/-! DEFINITION. PUSH and POP (49_stack_skip_misc.md section 1). -/

namespace Sys2Proof.Machine

open Sys2Proof

/-- PUSH Rr (R371). -/
def execPush (r : Reg) (s : State) : Result := finish (push8 (s.reg r) s) (·.retire 1 .push 1)

/-- POP Rd (R372). -/
def execPop (d : Reg) (s : State) : Result := finish ((pop8 s).map (fun p => p.2.setReg d p.1)) (·.retire 1 .pop 2)

end Sys2Proof.Machine
end

