-- ==== Sys2Proof/Machine/Store.lean ====
section
/-! DEFINITION. Stores to the data space (46_load_store.md R284, R296 to R306). -/

namespace Sys2Proof.Machine

open Sys2Proof

/-- STS k, Rr (R284). -/
def execSts (k : Word) (r : Reg) (s : State) : Result :=
  finish (memWrite (s.direct k) (s.reg r) s) (·.retire 2 .sts 2)

/-- ST X, Rr (R296). -/
def execStX (r : Reg) (s : State) : Result :=
  finish (memWrite (s.full .x) (s.reg r) s) (·.retire 1 .stX 1)

/-- ST X+, Rr (R297). -/
def execStXInc (r : Reg) (s : State) : Result :=
  finish (storeInc .x r (.stXInc r) s) (·.retire 1 .stXInc 1)

/-- ST -X, Rr (R298). -/
def execStXDec (r : Reg) (s : State) : Result :=
  finish (storeDec .x r (.stXDec r) s) (·.retire 1 .stXDec 2)

/-- ST Y, Rr (R299). -/
def execStY (r : Reg) (s : State) : Result :=
  finish (memWrite (s.full .y) (s.reg r) s) (·.retire 1 .stY 1)

/-- ST Y+, Rr (R300). -/
def execStYInc (r : Reg) (s : State) : Result :=
  finish (storeInc .y r (.stYInc r) s) (·.retire 1 .stYInc 1)

/-- ST -Y, Rr (R301). -/
def execStYDec (r : Reg) (s : State) : Result :=
  finish (storeDec .y r (.stYDec r) s) (·.retire 1 .stYDec 2)

/-- STD Y+q, Rr (R302). -/
def execStdY (q : BitVec 6) (r : Reg) (s : State) : Result :=
  finish (memWrite (s.displaced .y q) (s.reg r) s) (·.retire 1 .stdY 2)

/-- ST Z, Rr (R303). -/
def execStZ (r : Reg) (s : State) : Result :=
  finish (memWrite (s.full .z) (s.reg r) s) (·.retire 1 .stZ 1)

/-- ST Z+, Rr (R304). -/
def execStZInc (r : Reg) (s : State) : Result :=
  finish (storeInc .z r (.stZInc r) s) (·.retire 1 .stZInc 1)

/-- ST -Z, Rr (R305). -/
def execStZDec (r : Reg) (s : State) : Result :=
  finish (storeDec .z r (.stZDec r) s) (·.retire 1 .stZDec 2)

/-- STD Z+q, Rr (R306). -/
def execStdZ (q : BitVec 6) (r : Reg) (s : State) : Result :=
  finish (memWrite (s.displaced .z q) (s.reg r) s) (·.retire 1 .stdZ 2)

end Sys2Proof.Machine
end

