-- ==== Sys2Proof/Machine/Unary.lean ====
section
/-! DEFINITION. Unary arithmetic (41_unary.md). -/

namespace Sys2Proof.Machine

open Sys2Proof

/-- The shape of R210: Rd and SREG written from the old value of Rd. -/
def unaryOp (d : Reg) (res sreg : Byte) (f : Form) (s : State) : Result :=
  .next (((s.setReg d res).setSreg sreg).retire 1 f 1)

/-- COM Rd (R211). -/
def execCom (d : Reg) (s : State) : Result :=
  let res := 0xFF - s.reg d
  unaryOp d res (comFlags s.sreg res) .com s

/-- NEG Rd (R212). -/
def execNeg (d : Reg) (s : State) : Result :=
  let res := 0 - s.reg d
  unaryOp d res (negFlags s.sreg (s.reg d) res) .neg s

/-- SWAP Rd (R213). -/
def execSwap (d : Reg) (s : State) : Result :=
  unaryOp d ((s.reg d).extractLsb' 0 4 ++ (s.reg d).extractLsb' 4 4) s.sreg .swap s

/-- INC Rd (R214). -/
def execInc (d : Reg) (s : State) : Result :=
  let res := s.reg d + 1
  unaryOp d res (incFlags s.sreg res) .inc s

/-- DEC Rd (R215). -/
def execDec (d : Reg) (s : State) : Result :=
  let res := s.reg d - 1
  unaryOp d res (decFlags s.sreg res) .dec s

/-- A right shift by one with a bit put in at the top (R216 to R218). -/
def shiftIn (top : Bool) (a : Byte) : Byte := BitVec.ofBool top ++ a.extractLsb' 1 7

/-- ASR Rd (R216). -/
def execAsr (d : Reg) (s : State) : Result :=
  let res := shiftIn (bit (s.reg d) 7) (s.reg d)
  unaryOp d res (shiftFlags s.sreg (s.reg d) res) .asr s

/-- LSR Rd (R217). -/
def execLsr (d : Reg) (s : State) : Result :=
  let res := shiftIn false (s.reg d)
  unaryOp d res (shiftFlags s.sreg (s.reg d) res) .lsr s

/-- ROR Rd (R218). -/
def execRor (d : Reg) (s : State) : Result :=
  let res := shiftIn (flagC s.sreg) (s.reg d)
  unaryOp d res (shiftFlags s.sreg (s.reg d) res) .ror s

end Sys2Proof.Machine
end

