-- ==== Sys2Proof/Machine/WordOps.lean ====
section
/-! DEFINITION. Word-wide operations (45_word.md). -/

namespace Sys2Proof.Machine

open Sys2Proof

/-- MOVW Rd, Rr (R271). -/
def execMovw (d r : Reg) (s : State) : Result := .next ((s.setPair d (s.pair r)).retire 1 .movw 1)

/-- ADIW Rd, K (R272). -/
def execAdiw (d : Reg) (k : BitVec 6) (s : State) : Result :=
  let a := s.pair d
  let res := a + k.setWidth 16
  .next (((s.setPair d res).setSreg (addWordFlags s.sreg a res)).retire 1 .adiw 2)

/-- SBIW Rd, K (R273). -/
def execSbiw (d : Reg) (k : BitVec 6) (s : State) : Result :=
  let a := s.pair d
  let res := a - k.setWidth 16
  .next (((s.setPair d res).setSreg (subWordFlags s.sreg a res)).retire 1 .sbiw 2)

end Sys2Proof.Machine
end

