-- ==== Sys2Proof/Machine/Run.lean ====
section
/-! DEFINITION. Running: fetch, decode and execute (70_reset_and_hazards.md R512), the CPU step (R510), and the scheduler step
that fires every event due at the earliest tick (60_exceptions.md R463). -/

namespace Sys2Proof.Machine

open Sys2Proof

/-- A step's answer passed on to what follows it; a fault or a refusal ends the step. -/
def andThen (r : Result) (k : State → Result) : Result :=
  match r with
  | .next s => k s
  | .fault f => .fault f
  | .refused e => .refused e

/-- The second word of a two-word form; a one-word form reads none (R120, R122). -/
def fetchSecond (op : Word) (s : State) : Except Fault Word := if isLong op then fetchWord (s.pc + 1) s else .ok 0

/-- `ExecuteNextInstruction()` (R512): fetch, decode, execute; a word of no row is the unknown opcode (R399). -/
def executeNext (s : State) : Result :=
  match fetchWord s.pc s with
  | .error f => .fault f
  | .ok op =>
    match fetchSecond op s with
    | .error f => .fault f
    | .ok w2 =>
      match decode op w2 with
      | .ok i => exec i s
      | .error _ => execUnknown op s

/-- The start of a CPU step: `breaked` cleared, the CCP windows counted down (R510 (1), (1a)). -/
def beginCpuStep (s : State) : State := ccpCountDown { s with breaked := false }

/-- After an executed instruction: `interrupt_wait_instruction` cleared (R510 (3)). -/
def endInstruction (s : State) : State := { s with interruptWait := false }

/-- R510 (4): one tick of the cycle debt is paid. -/
def payTick (s : State) : State := { s with instructionCycles := s.instructionCycles - 1 }

/-- R510 (3) and (4). Every count is at least 1 (R512), so the loop of (3) runs at most once. -/
def executeAndPay (s : State) : Result :=
  if s.instructionCycles = 0 then andThen (executeNext s) (fun s => .next (payTick (endInstruction s)))
  else .next (payTick s)

/-- `cpu_step_callback()` (R510). Its answer of 1 tick is in `fireEvent`. -/
def cpuStep (s : State) : Result :=
  match tryDispatch (beginCpuStep s) with
  | .error f => .fault f
  | .ok s => executeAndPay s

/-- The end of a callback that answered `n` ticks: the running event is dropped for 0, else re-inserted `n` ticks of its
present scale later with a fresh insertion number (R463). -/
def endCallback (n : Nat) (s : State) : State :=
  let c := s.sched
  match c.running with
  | none => s
  | some e =>
    if n = 0 then s.setSched { c with running := none }
    else s.setSched { c with
      running := none
      heap := c.heap ++ [{ e with tick := e.tick + n * e.scale, seq := c.nextSeq }]
      nextSeq := c.nextSeq + 1 }

/-- One event taken from the heap and its callback run (R463). -/
def fireEvent (e : Event) (s : State) : Result :=
  let s := s.setSched { s.sched with heap := s.sched.heap.erase e, running := some e }
  match e.callback with
  | .cpuStep => andThen (cpuStep s) (fun s => .next (endCallback 1 s))
  | .client owner tag =>
    let r := Config.extCallback owner tag (s.extData owner) s.peek
    match serveAll owner r.calls (s.setExt owner r.data) with
    | .ok s => .next (endCallback r.ticks s)
    | .error f => .fault f

/-- The loop of `step()` (R463): events due by now, earliest first. A re-inserted event is due later (R463), so no more events
fire than the heap held. -/
def fireDue : Nat → State → Result
  | 0, s => .next s
  | n + 1, s =>
    match minEvent s.sched.heap with
    | none => .next s
    | some e => if e.tick ≤ s.sched.currentSysTick then andThen (fireEvent e s) (fireDue n) else .next s

/-- The time moved to the earliest event (R463). -/
def State.atTick (s : State) (t : Nat) : State := s.setSched { s.sched with currentSysTick := t }

/-- `step()` (R463). A device with a failed image load has no step (R504), and is refused
before its fault mark is looked at (DESIGN CHOICE, notes/assumptions/39.md); a recorded fault is never cleared and has no
successor (R16); an empty heap is logged and faults (R469). -/
def schedulerStep (s : State) : Result :=
  if s.usable then
    match s.fault with
    | some m => .fault (faultOf m s)
    | none =>
      match minEvent s.sched.heap with
      | none => .fault (raise .schedulerEmpty (s.record .schedulerEmpty))
      | some e => fireDue s.sched.heap.length (s.atTick e.tick)
  else .refused .deviceUnusable

/-- A flash word written from outside, low byte at the even address (R93). -/
def State.placeWord (s : State) (w : Nat) (v : Word) : State :=
  { s with flash := flashPut (flashPut s.flash (2 * w) (lowByte v)) (2 * w + 1) (highByte v) }

end Sys2Proof.Machine
end

