-- ==== Sys2Proof/Machine/Step.lean ====
section
/-! DEFINITION. One step of the machine, and an instruction placed where the next step fetches. -/

namespace Sys2Proof.Machine

open Sys2Proof

/-- One step: the scheduler's `step()`, the step of the host interface (60_exceptions.md R463, 70_reset_and_hazards.md R506,
R507). -/
def step (s : State) : Host.Outcome State Fault Refusal := schedulerStep s

/-- The state with an instruction in the two flash words at pc: `w` numbered as spec/opcode_table.json numbers it, every bit
above `nbits` 0. So that the next CPU step fetches it, no cycle debt is left, and no interrupt is dispatched before it when I is
set (notes/assumptions/18.md). -/
def State.withFetchWord (s : State) (nbits w : Nat) : State :=
  let v := BitVec.ofNat 32 (w % 2 ^ nbits)
  let a := s.pc.toNat
  let t := (s.placeWord a (v.extractLsb' 0 16)).placeWord (a + 1) (v.extractLsb' 16 16)
  { t with instructionCycles := 0, interruptWait := s.interruptWait || flagI s.sreg }

end Sys2Proof.Machine
end

