-- ==== Sys2Proof/Machine/HostOps.lean ====
section
/-! DEFINITION. What the host does between steps (70_reset_and_hazards.md R500 to R508): construction, image load, reset,
`set_pc`, the hooks of an external block, and `schedule`, `unschedule` and `set_iv_level`, the last three over the operations blocks
use. None of them looks at the fault mark of a device or clears it: what the host does to a faulted device the rules leave open, and
it acts as on any other (DESIGN CHOICE, notes/assumptions/36.md). -/

namespace Sys2Proof.Machine

open Sys2Proof

/-- Construction (R503): a configuration error gives no device. -/
def construct (p : Params) : Option State := if p.valid then some (State.blank p) else none

/-- The bytes of an image put into flash from byte address `b` on (R504). -/
def loadBytes : List Byte → Nat → Memory → Memory
  | [], _, m => m
  | v :: vs, b, m => loadBytes vs (b + 1) (flashPut m b v)

/-- `load_flash(bytes)` (R504): an odd or oversize image leaves a device with no further step, and nothing makes it
usable again; other host actions on it act as on any other device (DESIGN CHOICE, notes/assumptions/39.md). -/
def loadFlashImage (image : List Byte) (s : State) : State :=
  if image.length % 2 = 0 ∧ image.length ≤ 2 * s.params.flashWords then
    { s with flash := loadBytes image 0 s.flash }
  else { s with usable := false }

/-- `set_pc(v)` (R38): out of range it answers an error, recorded in the log (R402, notes/assumptions/19.md) with the
refused address (DESIGN CHOICE, notes/assumptions/35.md), and nothing else changes. -/
def setPcHost (v : Nat) (s : State) : State × Bool :=
  if v < s.params.flashWords then (s.setPc v, true) else (s.record (.setPcOutOfRange v), false)

/-- `set_iv_level` between steps (R412, R425). -/
def hostSetIvLevel (iv level : Int) (s : State) : State := setIvLevel iv level s

/-- The owner number that stands for the host: past every place of the registry. -/
def hostOwner (p : Params) : Nat := p.registry.length

/-- `schedule` between steps (R464, R506): the callback is the host's own, named by a tag. A fault mark that stands does not refuse it (DESIGN CHOICE,
notes/assumptions/36.md), nor does a device never reset (DESIGN CHOICE, notes/assumptions/37.md). -/
def hostSchedule (domain : Domain) (tag ticks : Nat) (priority : Int) (s : State) : Res Nat :=
  schedule domain (.client (hostOwner s.params) tag) ticks priority (.schedule domain tag ticks priority) s

/-- `unschedule` between steps (R465, R506); as `hostSchedule` on a faulted device and on one never reset. -/
def hostUnschedule (handle : Nat) (s : State) : Act := unschedule handle s

/-! The hooks of an external block that the host calls between steps (R523): no callback runs then, so a block may ask for an event
of its own in them. Before the first reset they act as after it (DESIGN CHOICE, notes/assumptions/37.md). Of the blocks whose
behaviour the model gives there are none: R506 lets the host write no register of theirs but pc. Which hooks they are, and that there is
none where the block at place `n` has no such local address or vector, is the model's choice (notes/assumptions/33.md). -/

/-- The block at place `n` of the registry, if it is an external one, whose hooks the host may call (R506, R523). -/
def hostHooked (p : Params) (n : Nat) : Option BlockDecl := p.registry[n]?.filter (·.kind == .external)

/-- `get_io` of an external block, called by the host (R410, R523). -/
def hostGetIo (n a : Nat) (s : State) : Option (Res Byte) :=
  (hostHooked s.params n).bind fun b => if a < b.ioSize then some (blockGetIo n b a s) else none

/-- `set_io` of an external block, called by the host (R410, R523). -/
def hostSetIo (n a : Nat) (v : Byte) (s : State) : Option Act :=
  (hostHooked s.params n).bind fun b => if a < b.ioSize then some (blockSetIo n b a v s) else none

/-- `execute_iv` of an external block, called by the host (R410, R523). -/
def hostExecuteIv (n iv : Nat) (s : State) : Option Act :=
  (hostHooked s.params n).bind fun b => if iv < b.ivCount then some (blockExecuteIv n b iv s) else none

/-- The reset of the CPU block (R502). -/
def resetCpu (s : State) : State :=
  { s with
    pc := 0, sp := spReset s.params, sreg := 0, rampd := 0, rampx := 0, rampy := 0, rampz := 0, eind := 0
    ccpReg := 0, ccpIoreg := 0, ccpSpm := 0, instructionCycles := 0, interruptWait := false, breaked := false }

/-- The reset of the CLK block (R454). -/
def resetClk (s : State) : State := s.setClk ⟨0, 0, 0, 0⟩

/-- The reset of the PMIC block (R427). -/
def resetPmic (s : State) : State := s.setPmic ⟨[], [], [], [], 0, 0, 0⟩

/-- The reset of one block other than CLK (R501); an external block that never calls the core is left in its one reset state. -/
def resetBlock (n : Nat) (b : BlockDecl) (s : State) : Act :=
  match b.kind with
  | .cpu => .ok (resetCpu s)
  | .clk => .ok s
  | .pmic => .ok (resetPmic s)
  | .gpior => .ok { s with gpior := Vector.replicate 16 0 }
  | .external =>
    if b.callsCore then hookReply n b (Config.extReset n (s.extData n) s.peek) s else .ok (s.setExt n [])

/-- The blocks in registration order (R501). -/
def resetBlocks : List BlockDecl → Nat → State → Act
  | [], _, s => .ok s
  | b :: bs, n, s => (resetBlock n b s).bind (resetBlocks bs (n + 1))

/-- The call `schedule(CPU, cpu_step_callback, 1, 100)` of R501. -/
def scheduleCpu (s : State) : Res Nat := schedule .cpu .cpuStep 1 100 (.schedule .cpu 0 1 100) s

/-- `reset()` (R501), in its order: tick, heap, CLK, the CPU event, the other blocks, the register file. A fault mark is kept, since it is
never cleared (R16), and the rest is reset beside it (DESIGN CHOICE, notes/assumptions/36.md). -/
def hostReset (s : State) : Act := do
  let s := s.setSched { s.sched with currentSysTick := 0, heap := [] }
  let (_, s) ← scheduleCpu (resetClk s)
  let s ← resetBlocks s.params.registry 0 s
  return { s with regs := Vector.replicate 32 0 }

end Sys2Proof.Machine
end

