-- ==== Sys2Proof/Safety.lean ====
section
/-! DEFINITION. What the claims call well formed and quiet: the invariants of the machine, one for each kind of state, and
the conditions under which an access or a step meets no call of an external block. -/

namespace Sys2Proof.Machine

open Sys2Proof

/-! ## Invariants -/

/-- Both memories are in canonical form, and SRAM lists addresses of internal SRAM only (R54, R85). -/
def State.memWf (s : State) : Bool :=
  Memory.wf none s.sram && s.sram.all (fun c => inSram s.params c.1) && Memory.wf (some flashErased) s.flash

/-- Every extension register holds only its legal bits (R45). -/
def State.rampsLegal (s : State) : Bool :=
  s.rampd &&& s.params.rampdMask == s.rampd && s.rampx &&& s.params.rampxMask == s.rampx &&
  s.rampy &&& s.params.rampyMask == s.rampy && s.rampz &&& s.params.rampzMask == s.rampz &&
  s.eind &&& s.params.eindMask == s.eind

/-- A strictly rising list. -/
def rising : List Nat → Bool
  | [] => true
  | a :: l => l.all (fun b => decide (a < b)) && rising l

/-- A pending set: vectors below IV_MAX_COUNT, each once (R420). -/
def ivSetWf (l : List Nat) : Bool := rising l && l.all (fun a => decide (a < ivMaxCount))

/-- Two pending sets share no vector. -/
def ivDisjoint (l m : List Nat) : Bool := l.all (fun a => !m.contains a)

/-- The pending set of a level; level 0 has none (R420). -/
def Pmic.pending (p : Pmic) : Level → List Nat
  | .none => []
  | .lo => p.lo
  | .med => p.med
  | .hi => p.hi
  | .nmi => p.nmi

/-- The invariant of R420: four pending sets, pairwise disjoint. -/
def Pmic.wf (p : Pmic) : Bool :=
  ivSetWf p.lo && ivSetWf p.med && ivSetWf p.hi && ivSetWf p.nmi &&
  ivDisjoint p.lo p.med && ivDisjoint p.lo p.hi && ivDisjoint p.lo p.nmi &&
  ivDisjoint p.med p.hi && ivDisjoint p.med p.nmi && ivDisjoint p.hi p.nmi

/-- The bits of the CLK registers that read 0 (R450), and a PSADIV code that is not reserved (R452). -/
def Clk.wf (c : Clk) : Bool :=
  c.ctrl &&& 0x07 == c.ctrl && c.psctrl &&& 0x7F == c.psctrl && (prescA c.psctrl).isSome && c.lock &&& 0x01 == c.lock

/-- The CCP counters run from 4 down (R48, R440). -/
def State.ccpWf (s : State) : Bool := decide (s.ccpIoreg ≤ 4) && decide (s.ccpSpm ≤ 4)

/-- An event of the heap between steps: its scale is its domain's present scale (R464, R466), it is due later (R463, R464),
and its handle and number were given out (R462, R464). -/
def eventWf (psctrl : Byte) (c : Sched) (e : Event) : Bool :=
  e.scale == scaleOf psctrl e.domain && decide (c.currentSysTick < e.tick) && decide (e.handle < c.nextHandle) &&
  decide (e.seq < c.nextSeq)

/-- The scheduler between steps: no callback runs, insertion numbers rise, every event is well formed, and the CPU event is
there (R468). -/
def Sched.wf (psctrl : Byte) (c : Sched) : Bool :=
  c.running.isNone && rising (c.heap.map Event.seq) && c.heap.all (eventWf psctrl c) &&
  c.heap.any (fun e => e.callback == .cpuStep)

/-- A device that can be stepped: no fault recorded, no failed image load. -/
def State.live (s : State) : Bool := s.usable && s.fault.isNone

/-- Everything above. -/
def State.inv (s : State) : Bool :=
  s.memWf && s.rampsLegal && s.pmic.wf && s.clk.wf && s.ccpWf && s.sched.wf s.clk.psctrl && s.live

/-! ## Accesses no external block answers with a call -/

/-- An I/O address whose owner, if any, calls no service of the core (R410, notes/assumptions/7.md). -/
def quietIo (p : Params) (a : Nat) : Bool :=
  match ioOwner p a with
  | none => true
  | some (_, b) => b.kind != .external || !b.callsCore

/-- A data address outside the I/O region, or a quiet one in it: an access to it never faults. -/
def quietAt (p : Params) (a : DataAddr) : Bool := !decide (a.toNat < memIoSize) || quietIo p a.toNat

/-- A vector whose owner, if any, calls no service of the core. -/
def quietIv (p : Params) (iv : Nat) : Bool :=
  match ivOwner p iv with
  | none => true
  | some (_, b) => b.kind != .external || !b.callsCore

/-- No block of the registry calls the core. -/
def quietBlocks (p : Params) : Bool := p.registry.all (fun b => !b.callsCore)

/-- The stack has room for `n` pushes: the `n` addresses from SP down lie in internal SRAM (R95), and no EEPROM range reaches into
them (R7). -/
def canPush (s : State) (n : Nat) : Bool :=
  decide (s.params.eepromSize ≤ 0x1000) && decide (memSramStart + (n - 1) ≤ s.sp.toNat) &&
  decide (s.sp.toNat < memSramStart + s.params.sramSize)

/-- The stack holds `n` bytes: the `n` addresses above SP lie in internal SRAM (R95). -/
def canPop (s : State) (n : Nat) : Bool :=
  decide (s.params.eepromSize ≤ 0x1000) && decide (memSramStart ≤ s.sp.toNat + 1) &&
  decide (s.sp.toNat + n < memSramStart + s.params.sramSize) && decide (s.sp.toNat + n < 0x10000)

/-! ## The arithmetic reading of the flag rules (R231, R232, R250)

The claims compare the flags an instruction writes with these, which compute on numbers, not on bits. -/

/-- SREG after `a + b + cin`, by the equivalent conditions of R231. -/
def sumSreg (sreg a b : Byte) (cin : Bool) : Byte :=
  let n := a.toNat + b.toNat + cin.toNat
  let z := a.toInt + b.toInt + cin.toNat
  putHVNZC sreg (decide (15 < a.toNat % 16 + b.toNat % 16 + cin.toNat)) (decide (z < -128 ∨ 127 < z))
    (decide (128 ≤ n % 256)) (decide (n % 256 = 0)) (decide (255 < n))

/-- SREG after `a - b - cin`, by the equivalent conditions of R232; with `keepZ` Z is only ever cleared. -/
def differenceSreg (sreg a b : Byte) (cin keepZ : Bool) : Byte :=
  let n := a.toNat + 512 - b.toNat - cin.toNat
  let z := a.toInt - b.toInt - cin.toNat
  putHVNZC sreg (decide (a.toNat % 16 < b.toNat % 16 + cin.toNat)) (decide (z < -128 ∨ 127 < z))
    (decide (128 ≤ n % 256)) (decide (n % 256 = 0) && (!keepZ || flagZ sreg)) (decide (a.toNat < b.toNat + cin.toNat))

/-- SREG after a logic result (R237): V cleared, H and C kept. -/
def logicSreg (sreg res : Byte) : Byte :=
  putHVNZC sreg (flagH sreg) false (decide (128 ≤ res.toNat)) (decide (res.toNat = 0)) (flagC sreg)

/-- SREG after a multiply of exact product `p` that writes `v` (R250): C is bit 15 of `p`, Z says that the 16 bits of `v` are
0, the other flags are kept. -/
def productSreg (sreg : Byte) (p v : Int) : Byte :=
  packSreg (flagI sreg) (flagT sreg) (flagH sreg) (flagS sreg) (flagV sreg) (flagN sreg)
    (decide (v % 65536 = 0)) (decide (p / 32768 % 2 = 1))

/-! ## The stack as the claims see it (R94, R95) -/

/-- How SRAM and SP differ from `s` after the low `n` bytes of `v` were pushed, least significant byte first: nothing else of SRAM
differs. -/
def State.pushed (s t : State) (n : Nat) (v : Int) : Prop :=
  t.sp = s.sp - BitVec.ofNat 16 n ∧
  (∀ k, k < n → t.sramAt (s.sp.toNat - k) = BitVec.ofInt 8 (v / 256 ^ k)) ∧
  ∀ b, (b + n ≤ s.sp.toNat ∨ s.sp.toNat < b) → t.sramAt b = s.sramAt b

/-- The fault of pushing `v` when the first `j` bytes went to SRAM and the next address lies outside (R95). -/
def State.pushStops (s : State) (v : Int) (j : Nat) (f : Fault) : Prop :=
  ∃ t, s.pushed t j v ∧ t = { s with sram := t.sram, sp := t.sp } ∧
    f = .stackOutsideSram t.sp.toNat { t with fault := some (.stackOutsideSram t.sp.toNat) }

/-- The fault of popping when `j` bytes came from SRAM and the next address lies outside: SP was incremented for it (R95). -/
def State.popStops (s : State) (j : Nat) (f : Fault) : Prop :=
  let t := s.setSp (s.sp + BitVec.ofNat 16 (j + 1))
  f = .stackOutsideSram t.sp.toNat { t with fault := some (.stackOutsideSram t.sp.toNat) }

/-- The address that the bytes above SP hold, most significant byte lowest. -/
def State.returnAddress (s : State) : Nat :=
  let at_ (k : Nat) := (s.sramAt (s.sp.toNat + k)).toNat
  if s.params.bigPc then at_ 1 * 65536 + at_ 2 * 256 + at_ 3 else at_ 1 * 256 + at_ 2

/-! ## How instructions of one shape complete

Each names the conditions on the state and operands under which the instruction answers a next state, that state, and what it
leaves alone. An access to a block that calls the core can instead end in `callbackHeapMutation` (R467). -/

/-- What a read leaves: everything but the log, the count of free values and the state of external blocks. -/
def State.afterRead (s t : State) : Prop := t = { s with log := t.log, draws := t.draws, ext := t.ext }

/-- What a write of the byte at `a` leaves: the registers, both memories but for that byte, and at or above 0x1000 everything
but SRAM and the log. -/
def State.afterWrite (s t : State) (a : DataAddr) : Prop :=
  t.regs = s.regs ∧ t.flash = s.flash ∧ t.params = s.params ∧ (∀ b, b ≠ a.toNat → t.sramAt b = s.sramAt b) ∧
  (a.toNat < 0x1000 → t.sram = s.sram) ∧ (0x1000 ≤ a.toNat → t = { s with sram := t.sram, log := t.log })

/-- `i` reads the byte at `a` into `d`. -/
def State.loads (s : State) (i : Instr) (a : DataAddr) (d : Reg) (words : Int) (f : Form) (n : Nat) : Prop :=
  quietAt s.params a = true → ∃ v t, memRead a s = .ok (v, t) ∧ s.afterRead t ∧
    exec i s = .next { t with
      regs := s.regs.set d v, pc := s.pc + words, instructionCycles := s.params.cyclesOf f n }

/-- `i` reads the byte at `Full(p)` into `d`, no register of the pointer, and then increments the pointer. -/
def State.loadsInc (s : State) (i : Instr) (p : Ptr) (d : Reg) (f : Form) : Prop :=
  p.overlaps d = false → quietAt s.params (s.full p) = true → ∃ v t, memRead (s.full p) s = .ok (v, t) ∧ s.afterRead t ∧
    exec i s = .next { (t.setReg d v).setFull p (s.full p + 1) with
      pc := s.pc + 1, instructionCycles := s.params.cyclesOf f 1 }

/-- `i` decrements the pointer and then reads the byte at `Full(p)` into `d`, no register of the pointer. -/
def State.loadsDec (s : State) (i : Instr) (p : Ptr) (d : Reg) (f : Form) : Prop :=
  let u := s.setFull p (s.full p - 1)
  p.overlaps d = false → quietAt s.params (u.full p) = true → ∃ v t, memRead (u.full p) u = .ok (v, t) ∧ u.afterRead t ∧
    exec i s = .next { t.setReg d v with pc := s.pc + 1, instructionCycles := s.params.cyclesOf f 2 }

/-- The overlap form of a load (R282): the log first, the access at `a` in the state `u` that the pseudocode has then, and after
it free values in both bytes of the pointer and in its extension register. -/
def State.loadsOverlap (s : State) (i : Instr) (p : Ptr) (u : State) (f : Form) (n : Nat) : Prop :=
  quietAt s.params (u.full p) = true → ∃ v t r, memRead (u.full p) u = .ok (v, t) ∧ u.afterRead t ∧ exec i s = .next r ∧
    r.reg p.lo = Config.draw t.draws ∧ r.reg (p.lo + 1) = Config.draw (t.draws + 1) ∧
    r.ramp p = (t.setRamp p (Config.draw (t.draws + 2))).ramp p ∧
    (∀ q, p.overlaps q = false → r.reg q = s.reg q) ∧ (∀ q, q ≠ p → r.ramp q = s.ramp q) ∧
    r = { t with
      regs := r.regs, rampx := r.rampx, rampy := r.rampy, rampz := r.rampz, pc := s.pc + 1, draws := t.draws + 3
      instructionCycles := s.params.cyclesOf f n }

/-- `i` writes `v` to the byte at `a`. -/
def State.stores (s : State) (i : Instr) (a : DataAddr) (v : Byte) (words : Int) (f : Form) (n : Nat) : Prop :=
  quietAt s.params a = true → ∃ t, memWrite a v s = .ok t ∧ s.afterWrite t a ∧
    exec i s = .next { t with pc := s.pc + words, instructionCycles := s.params.cyclesOf f n }

/-- `i` writes `v` to the byte at `Full(p)` in the state `u`, then increments the pointer. -/
def State.storesInc (s : State) (i : Instr) (p : Ptr) (u : State) (v : Byte) (f : Form) : Prop :=
  quietAt s.params (s.full p) = true → ∃ t, memWrite (s.full p) v u = .ok t ∧ u.afterWrite t (s.full p) ∧
    exec i s = .next { t.setFull p (s.full p + 1) with pc := s.pc + 1, instructionCycles := s.params.cyclesOf f 1 }

/-- `i` writes `v` to the byte at `Full(p)` in the state `u`, whose pointer is decremented. -/
def State.storesDec (s : State) (i : Instr) (p : Ptr) (u : State) (v : Byte) (f : Form) : Prop :=
  quietAt s.params (u.full p) = true → ∃ t, memWrite (u.full p) v u = .ok t ∧ u.afterWrite t (u.full p) ∧
    exec i s = .next { t with pc := s.pc + 1, instructionCycles := s.params.cyclesOf f 2 }

/-- `i` reads the flash byte `b` into `d`, or stops when flash has no such byte (R91). -/
def State.readsFlash (s : State) (i : Instr) (b : Nat) (d : Reg) (f : Form) : Prop :=
  (b < s.params.flashSize → exec i s = .next { s with
    regs := s.regs.set d (s.flashAt b), pc := s.pc + 1, instructionCycles := s.params.cyclesOf f 3 }) ∧
  (s.params.flashSize ≤ b →
    exec i s = .fault (.flashReadOutOfRange b { s with fault := some (.flashReadOutOfRange b) }))

/-- `i` exchanges the byte at `Full(Z)` with `d`: the byte read goes to `d`, and `w` of it to memory (R313 to R316). -/
def State.exchanges (s : State) (i : Instr) (d : Reg) (w : Byte → Byte) (f : Form) : Prop :=
  (quietAt s.params (s.full .z) = true → ∃ v t u, memRead (s.full .z) s = .ok (v, t) ∧ s.afterRead t ∧
    memWrite (s.full .z) (w v) t = .ok u ∧ t.afterWrite u (s.full .z) ∧
    exec i s = .next { u with
      regs := s.regs.set d v, pc := s.pc + 1, instructionCycles := s.params.cyclesOf f 2 }) ∧
  (s.params.eepromSize ≤ 0x1000 → inSram s.params (s.full .z).toNat = true →
    exec i s = .next { s with
      regs := s.regs.set d (s.sramAt (s.full .z).toNat)
      sram := memSet s.sram (s.full .z).toNat (w (s.sramAt (s.full .z).toNat))
      pc := s.pc + 1, instructionCycles := s.params.cyclesOf f 2 })

/-- `i` calls `target`: the return address is pushed, nothing else but pc and the debt changes (R345 to R348). -/
def State.calls (s : State) (i : Instr) (ret target : Int) (f : Form) (n : Nat) : Prop :=
  canPush s s.params.retBytes = true → ∃ t, s.pushed t s.params.retBytes ret ∧ exec i s = .next t ∧
    t = { s with sram := t.sram, sp := t.sp, pc := target, instructionCycles := s.params.cyclesOf f n }

/-- The outcomes of a skip of condition `c` met in the state `t` (R380): one word on, past a one-word or a two-word instruction, or
the fault of looking beyond flash (R37). -/
def State.skips (t : State) (r : Result) (c : Bool) (f : Form) : Prop :=
  let w := t.flashWord (t.pc + 1).toNat
  let to_ (k : Int) (n : Nat) : Result := .next { t with pc := t.pc + k, instructionCycles := t.params.cyclesOf f n }
  (c = false → r = to_ 1 1) ∧
  (c = true → 0 ≤ t.pc + 1 → t.pc + 1 < t.params.flashWords →
    r = if w &&& 0xFE0C = 0x940C ∨ w &&& 0xFC0F = 0x9000 then to_ 3 3 else to_ 2 2) ∧
  (c = true → (t.pc + 1 < 0 ∨ (t.params.flashWords : Int) ≤ t.pc + 1) →
    r = .fault (.fetchOutOfRange (t.pc + 1) { t with fault := some (.fetchOutOfRange (t.pc + 1)) }))

/-! ## Which instructions may write SREG (R42) -/

/-- The instructions whose rules write flags (the rows of the table in R42). -/
def writesFlags : Instr → Bool
  | .add _ _ | .adc _ _ | .sub _ _ | .subi _ _ | .sbc _ _ | .sbci _ _ | .cp _ _ | .cpc _ _ | .cpi _ _ | .and _ _ | .andi _ _
  | .or _ _ | .ori _ _ | .eor _ _ | .com _ | .neg _ | .inc _ | .dec _ | .asr _ | .lsr _ | .ror _ | .adiw _ _ | .sbiw _ _
  | .mul _ _ | .muls _ _ | .mulsu _ _ | .fmul _ _ | .fmuls _ _ | .fmulsu _ _ | .bst _ _ | .bset _ | .bclr _ => true
  | _ => false

/-- The instructions that write a byte of the data space at an address the program chooses, and so can reach SREG at 0x3F. -/
def storesData : Instr → Bool
  | .stX _ | .stXInc _ | .stXDec _ | .stY _ | .stYInc _ | .stYDec _ | .stZ _ | .stZInc _ | .stZDec _ | .stdY _ _ | .stdZ _ _
  | .sts _ _ | .outp _ _ | .xch _ | .las _ | .lac _ | .lat _ => true
  | _ => false

end Sys2Proof.Machine
end

