-- ==== Sys2Proof/Certificates/Slice0/Obligations.lean ====
section
/-! DEFINITION. The statements for the provers. A statement that gives an instruction's next state as a record update says by it
that every other field is unchanged. -/

open Sys2Proof Sys2Proof.Machine

/-! ## SREG and encodings -/

/-- The places of the eight flags (R40), S as `N ^ V`, and that a flag write keeps I and T. -/
def Obligations.SregLayout : Prop :=
  ∀ (sreg : Byte) (i t h s v n z c : Bool),
    (packSreg i t h s v n z c).toNat = c.toNat + 2 * z.toNat + 4 * n.toNat + 8 * v.toNat + 16 * s.toNat + 32 * h.toNat +
      64 * t.toNat + 128 * i.toNat ∧
    putHVNZC sreg h v n z c = packSreg (sreg.getLsbD 7) (sreg.getLsbD 6) h (n ^^ v) v n z c

/-- The example words of the instruction rules and of R120, decoded (a sanity statement). -/
def Obligations.SpecWordsDecode : Prop :=
  decode 0x9478 0 = .ok (.bset 7) ∧ decode 0xFB03 0 = .ok (.bst 16 3) ∧ decode 0x9583 0 = .ok (.inc 24) ∧
  decode 0x0F01 0 = .ok (.add 16 17) ∧ decode 0x0301 0 = .ok (.mulsu 16 17) ∧ decode 0x0389 0 = .ok (.fmulsu 16 17) ∧
  decode 0x700F 0 = .ok (.andi 16 0x0F) ∧ decode 0x9731 0 = .ok (.sbiw 30 1) ∧ decode 0xAD0F 0 = .ok (.lddY 16 63) ∧
  decode 0x9300 0x2001 = .ok (.sts 0x2001 16) ∧ decode 0x9107 0 = .ok (.elpmZInc 16) ∧ decode 0x9304 0 = .ok (.xch 16) ∧
  decode 0xBF04 0 = .ok (.outp 0x34 16) ∧ decode 0x941C 0x0000 = .ok (.jmp 0x20000) ∧ decode 0xF7F9 0 = .ok (.brbc 1 0x7F) ∧
  decode 0x911F 0 = .ok (.pop 17) ∧ decode 0x9B2B 0 = .ok (.sbis 5 3) ∧ decode 0x9598 0 = .ok .brk

/-- Decoding the words of a well-formed instruction gives it back, whatever stands where a one-word form has no second word. -/
def Obligations.DecodeOfEncode : Prop :=
  ∀ (i : Instr) (w : Word), i.wellFormed = true → decode (firstWord i) ((encode i).getD 1 w) = .ok i

/-- A word that decodes gives a well-formed instruction, and is that instruction's encoding. -/
def Obligations.EncodeOfDecode : Prop :=
  ∀ (op w : Word) (i : Instr), decode op w = .ok i →
    i.wellFormed = true ∧ encode i = if isLong op then [op, w] else [op]

/-- The unknown opcodes are exactly the groups of R143. -/
def Obligations.UnknownWordsExactly : Prop :=
  ∀ op w : Word, (∃ e, decode op w = .error e) ↔
    (op &&& 0xFF00 = 0x0000 ∧ op ≠ 0x0000) ∨
    op &&& 0xFE0F ∈ ([0x9003, 0x9008, 0x900B, 0x9203, 0x9208, 0x920B, 0x9404] : List Word) ∨
    op ∈ ([0x9528, 0x9538, 0x9548, 0x9558, 0x9568, 0x9578, 0x95B8] : List Word) ∨
    (op &&& 0xFE0F = 0x9409 ∧ op ∉ ([0x9409, 0x9419, 0x9509, 0x9519] : List Word)) ∨
    op &&& 0xFF0F = 0x950B ∨ op &&& 0xF808 = 0xF808

/-! ## Fetching and running -/

/-- A step whose earliest event is the CPU step, with no debt, no interrupt to dispatch and an instruction in flash at pc, executes
that instruction, between the start of a CPU step (`breaked` cleared, CCP windows counted down) and its end
(`interrupt_wait_instruction` cleared, one tick of the debt paid, the running event re-inserted one tick of its present scale
later with a fresh number), and then fires what else is due. The debt an instruction sets is the default count of its form, or
the one non-zero count that the parameter `cycles` lists for it (R10, R512), and never a listed 0; how `cycles` names a form is the
model's choice (notes/assumptions/15.md). -/
def Obligations.StepRunsDecodedInstruction : Prop :=
  (∀ (s u : State) (e : Event) (op w : Word) (i : Instr),
    s.usable = true → s.fault = none → minEvent s.sched.heap = some e → e.callback = .cpuStep → s.instructionCycles = 0 →
    u = { s with
      breaked := false, ccpIoreg := s.ccpIoreg - 1, ccpSpm := s.ccpSpm - 1
      sched := { s.sched with currentSysTick := e.tick, heap := s.sched.heap.erase e, running := some e } } →
    (s.interruptWait = false → s.sreg.getLsbD 7 = true → s.ccpIoreg ≤ 1 → s.ccpSpm ≤ 1 →
      s.pmic.arbitrate s.params.nmiReentrant = none) →
    0 ≤ s.pc → s.pc < s.params.flashWords → op = s.flashWord s.pc.toNat →
    (isLong op = true → s.pc + 1 < s.params.flashWords) →
    w = (if isLong op = true then s.flashWord (s.pc + 1).toNat else 0) →
    decode op w = .ok i →
    step s = andThen (andThen (exec i u) (fun t =>
        let c := t.sched
        .next { t with
          interruptWait := false, instructionCycles := t.instructionCycles - 1
          sched := match c.running with
            | none => c
            | some r => { c with
              running := none, heap := c.heap ++ [{ r with tick := r.tick + r.scale, seq := c.nextSeq }]
              nextSeq := c.nextSeq + 1 } }))
      (fireDue (s.sched.heap.length - 1))) ∧
  ∀ (p : Params) (f : Form) (n : Nat),
    let entry (c : CycleEntry) : Prop := c ∈ p.cycles ∧ c.form = f ∧ c.default = n ∧ c.count ≠ 0
    ((∀ c, ¬ entry c) → p.cyclesOf f n = n) ∧
    (∀ c, entry c → (∀ c', entry c' → c'.count = c.count) → p.cyclesOf f n = c.count) ∧
    ((∃ c, entry c) → ∃ c, entry c ∧ p.cyclesOf f n = c.count) ∧ (n ≠ 0 → p.cyclesOf f n ≠ 0)

/-- R399: a first word that matches no row logs an error, moves pc by one word and costs one cycle; nothing else changes. -/
def Obligations.UnknownOpcodeRuns : Prop :=
  ∀ (s : State) (op w : Word) (e : DecodeError), 0 ≤ s.pc → s.pc < s.params.flashWords → op = s.flashWord s.pc.toNat →
    decode op w = .error e →
    executeNext s = .next { s with
      log := .unknownOpcode s.pc op :: s.log, pc := s.pc + 1, instructionCycles := s.params.cyclesOf .unknown 1 } ∧
    (LogRecord.unknownOpcode s.pc op).severity = .error

/-- R37: a fetch of a first or second word outside `[0, flash_words)` stops with the address, and changes nothing else. -/
def Obligations.FetchOutsideFlashFaults : Prop :=
  ∀ s : State,
    ((s.pc < 0 ∨ (s.params.flashWords : Int) ≤ s.pc) →
      executeNext s = .fault (.fetchOutOfRange s.pc { s with fault := some (.fetchOutOfRange s.pc) })) ∧
    (0 ≤ s.pc → s.pc + 1 = s.params.flashWords → isLong (s.flashWord s.pc.toNat) = true →
      executeNext s = .fault (.fetchOutOfRange (s.pc + 1) { s with fault := some (.fetchOutOfRange (s.pc + 1)) }))

/-! ## Arithmetic and logic -/

/-- BSET, BCLR and BST write one flag, BLD one bit of Rd, and nothing else but pc and the debt (R201 to R204). -/
def Obligations.BitInstructions : Prop :=
  ∀ (f b : Bit) (d : Reg) (s : State),
    (∃ v, (∀ k : Bit, flag v k = (k == f || flag s.sreg k)) ∧
      exec (.bset f) s = .next { s with sreg := v, pc := s.pc + 1, instructionCycles := s.params.cyclesOf .bset 1 }) ∧
    (∃ v, (∀ k : Bit, flag v k = (k != f && flag s.sreg k)) ∧
      exec (.bclr f) s = .next { s with sreg := v, pc := s.pc + 1, instructionCycles := s.params.cyclesOf .bclr 1 }) ∧
    (∃ v, (∀ k : Bit, flag v k = if k = 6 then (s.reg d).getLsbD b else flag s.sreg k) ∧
      exec (.bst d b) s = .next { s with sreg := v, pc := s.pc + 1, instructionCycles := s.params.cyclesOf .bst 1 }) ∧
    (∃ v : Byte, (∀ k : Bit, v.getLsbD k = if k = b then flagT s.sreg else (s.reg d).getLsbD k) ∧
      exec (.bld d b) s = .next { s with
        regs := s.regs.set d v, pc := s.pc + 1, instructionCycles := s.params.cyclesOf .bld 1 })

/-- COM, NEG, INC, DEC and SWAP: the result and the flags of R210 to R215, by arithmetic on the old value of Rd. -/
def Obligations.UnaryResults : Prop :=
  ∀ (d : Reg) (s : State),
    let a := (s.reg d).toNat
    let h := flagH s.sreg
    let c := flagC s.sreg
    let to_ (f : Form) (res : Nat) (sreg : Byte) : Result := .next { s with
      regs := s.regs.set d (BitVec.ofNat 8 res), sreg := sreg, pc := s.pc + 1
      instructionCycles := s.params.cyclesOf f 1 }
    exec (.com d) s = to_ .com (255 - a) (putHVNZC s.sreg h false (decide (a < 128)) (decide (a = 255)) true) ∧
    exec (.neg d) s = to_ .neg (256 - a) (putHVNZC s.sreg (decide (a % 16 ≠ 0)) (decide (a = 128))
      (decide (0 < a ∧ a ≤ 128)) (decide (a = 0)) (decide (a ≠ 0))) ∧
    exec (.inc d) s = to_ .inc (a + 1) (putHVNZC s.sreg h (decide (a = 127)) (decide (127 ≤ a ∧ a < 255))
      (decide (a = 255)) c) ∧
    exec (.dec d) s = to_ .dec (a + 255) (putHVNZC s.sreg h (decide (a = 128)) (decide (a = 0 ∨ 129 ≤ a))
      (decide (a = 1)) c) ∧
    exec (.swap d) s = to_ .swap (a % 16 * 16 + a / 16) s.sreg

/-- ASR, LSR and ROR: the result and the flags of R216 to R218, by arithmetic on the old value of Rd. -/
def Obligations.ShiftResults : Prop :=
  ∀ (d : Reg) (s : State),
    let a := (s.reg d).toNat
    let c := decide (a % 2 = 1)
    let h := flagH s.sreg
    let to_ (f : Form) (res : Nat) (n : Bool) : Result := .next { s with
      regs := s.regs.set d (BitVec.ofNat 8 res), sreg := putHVNZC s.sreg h (n ^^ c) n (decide (res = 0)) c, pc := s.pc + 1
      instructionCycles := s.params.cyclesOf f 1 }
    exec (.asr d) s = to_ .asr (a / 2 + if 128 ≤ a then 128 else 0) (decide (128 ≤ a)) ∧
    exec (.lsr d) s = to_ .lsr (a / 2) false ∧
    exec (.ror d) s = to_ .ror (a / 2 + 128 * (flagC s.sreg).toNat) (flagC s.sreg)

/-- ADD and ADC: the sum modulo 256 and the flags of R231 (R233, R234). -/
def Obligations.AddResults : Prop :=
  ∀ (d r : Reg) (s : State),
    exec (.add d r) s = .next { s with
      regs := s.regs.set d (BitVec.ofNat 8 ((s.reg d).toNat + (s.reg r).toNat))
      sreg := sumSreg s.sreg (s.reg d) (s.reg r) false
      pc := s.pc + 1, instructionCycles := s.params.cyclesOf .add 1 } ∧
    exec (.adc d r) s = .next { s with
      regs := s.regs.set d (BitVec.ofNat 8 ((s.reg d).toNat + (s.reg r).toNat + (flagC s.sreg).toNat))
      sreg := sumSreg s.sreg (s.reg d) (s.reg r) (flagC s.sreg)
      pc := s.pc + 1, instructionCycles := s.params.cyclesOf .adc 1 }

/-- SUB, SBC, SUBI and SBCI: the difference modulo 256 and the flags of R232 (R235, R236, R262, R263). -/
def Obligations.SubtractResults : Prop :=
  ∀ (d r : Reg) (k : Byte) (s : State),
    let to_ (f : Form) (b : Byte) (cin keepZ : Bool) : Result := .next { s with
      regs := s.regs.set d (BitVec.ofInt 8 ((s.reg d).toNat - b.toNat - cin.toNat))
      sreg := differenceSreg s.sreg (s.reg d) b cin keepZ
      pc := s.pc + 1, instructionCycles := s.params.cyclesOf f 1 }
    exec (.sub d r) s = to_ .sub (s.reg r) false false ∧ exec (.subi d k) s = to_ .subi k false false ∧
    exec (.sbc d r) s = to_ .sbc (s.reg r) (flagC s.sreg) true ∧
    exec (.sbci d k) s = to_ .sbci k (flagC s.sreg) true

/-- CP, CPC and CPI: the flags of R232 and no register (R241, R242, R261). -/
def Obligations.CompareResults : Prop :=
  ∀ (d r : Reg) (k : Byte) (s : State),
    let to_ (f : Form) (b : Byte) (cin keepZ : Bool) : Result := .next { s with
      sreg := differenceSreg s.sreg (s.reg d) b cin keepZ
      pc := s.pc + 1, instructionCycles := s.params.cyclesOf f 1 }
    exec (.cp d r) s = to_ .cp (s.reg r) false false ∧ exec (.cpi d k) s = to_ .cpi k false false ∧
    exec (.cpc d r) s = to_ .cpc (s.reg r) (flagC s.sreg) true

/-- AND, OR, EOR, ANDI and ORI: every bit of the result, and the flags of R237 (R237 to R239, R264, R265). -/
def Obligations.LogicResults : Prop :=
  ∀ (d r : Reg) (k : Byte) (s : State),
    let to_ (f : Form) (v : Byte) : Result := .next { s with
      regs := s.regs.set d v, sreg := logicSreg s.sreg v, pc := s.pc + 1, instructionCycles := s.params.cyclesOf f 1 }
    let bits (b : Byte) (op : Bool → Bool → Bool) (v : Byte) : Prop :=
      ∀ j : Bit, v.getLsbD j = op ((s.reg d).getLsbD j) (b.getLsbD j)
    (∃ v, bits (s.reg r) and v ∧ exec (.and d r) s = to_ .and v) ∧ (∃ v, bits (s.reg r) or v ∧ exec (.or d r) s = to_ .or v) ∧
    (∃ v, bits (s.reg r) xor v ∧ exec (.eor d r) s = to_ .eor v) ∧ (∃ v, bits k and v ∧ exec (.andi d k) s = to_ .andi v) ∧
    (∃ v, bits k or v ∧ exec (.ori d k) s = to_ .ori v)

/-- MOV, LDI and MOVW: what every register holds after, and nothing else but pc and the debt (R240, R266, R271). -/
def Obligations.CopyResults : Prop :=
  ∀ (d r : Reg) (k : Byte) (s : State),
    (∃ t, exec (.mov d r) s = .next t ∧ (∀ j, t.reg j = if j = d then s.reg r else s.reg j) ∧
      t = { s with regs := t.regs, pc := s.pc + 1, instructionCycles := s.params.cyclesOf .mov 1 }) ∧
    (∃ t, exec (.ldi d k) s = .next t ∧ (∀ j, t.reg j = if j = d then k else s.reg j) ∧
      t = { s with regs := t.regs, pc := s.pc + 1, instructionCycles := s.params.cyclesOf .ldi 1 }) ∧
    (∃ t, exec (.movw d r) s = .next t ∧
      (∀ j, t.reg j = if j = d then s.reg r else if j = d + 1 then s.reg (r + 1) else s.reg j) ∧
      t = { s with regs := t.regs, pc := s.pc + 1, instructionCycles := s.params.cyclesOf .movw 1 })

/-- The six multiplies: the exact product, or twice it, in r1:r0, and C and Z (R250 to R256). -/
def Obligations.MultiplyResults : Prop :=
  ∀ (d r : Reg) (s : State),
    let to_ (f : Form) (p v : Int) : Result := .next { s with
      regs := (s.regs.set 0 (BitVec.ofInt 8 v)).set 1 (BitVec.ofInt 8 (v / 256)), sreg := productSreg s.sreg p v
      pc := s.pc + 1, instructionCycles := s.params.cyclesOf f 2 }
    let uu : Int := (s.reg d).toNat * (s.reg r).toNat
    let ss : Int := (s.reg d).toInt * (s.reg r).toInt
    let su : Int := (s.reg d).toInt * (s.reg r).toNat
    exec (.mul d r) s = to_ .mul uu uu ∧ exec (.muls d r) s = to_ .muls ss ss ∧ exec (.mulsu d r) s = to_ .mulsu su su ∧
    exec (.fmul d r) s = to_ .fmul uu (2 * uu) ∧ exec (.fmuls d r) s = to_ .fmuls ss (2 * ss) ∧
    exec (.fmulsu d r) s = to_ .fmulsu su (2 * su)

/-- ADIW and SBIW: the 16-bit result in the pair, and the flags of R272 and R273, by arithmetic on the old value of the pair. -/
def Obligations.WordImmediateResults : Prop :=
  ∀ (d : Reg) (k : BitVec 6) (s : State),
    let a := (s.reg (d + 1)).toNat * 256 + (s.reg d).toNat
    let h := flagH s.sreg
    let to_ (f : Form) (res : Nat) (v c : Bool) : Result := .next { s with
      regs := (s.regs.set d (BitVec.ofNat 8 res)).set (d + 1 : Reg) (BitVec.ofNat 8 (res / 256))
      sreg := putHVNZC s.sreg h v (decide (32768 ≤ res)) (decide (res = 0)) c
      pc := s.pc + 1, instructionCycles := s.params.cyclesOf f 2 }
    exec (.adiw d k) s = to_ .adiw ((a + k.toNat) % 65536) (decide (a < 32768 ∧ 32768 ≤ a + k.toNat))
      (decide (65536 ≤ a + k.toNat)) ∧
    exec (.sbiw d k) s = to_ .sbiw ((a + 65536 - k.toNat) % 65536) (decide (32768 ≤ a ∧ a < 32768 + k.toNat))
      (decide (a < k.toNat))

/-! ## Loads, stores and program memory -/

/-- Addresses and pointer updates (R280, R281): `Full(P)`, displacement and direct addresses as numbers, and what an update leaves
in the pair and, modulo its mask, in the extension register. -/
def Obligations.PointerArithmetic : Prop :=
  ∀ (s : State) (p : Ptr) (q : BitVec 6) (k : Word) (v : DataAddr),
    (s.full p).toNat = (s.ramp p).toNat * 65536 + (s.reg (p.lo + 1)).toNat * 256 + (s.reg p.lo).toNat ∧
    (s.displaced p q).toNat = ((s.full p).toNat + q.toNat) % 16777216 ∧
    (s.direct k).toNat = s.rampd.toNat * 65536 + k.toNat ∧
    (∀ j, (s.setFull p v).reg j = if j = p.lo then BitVec.ofNat 8 v.toNat
      else if j = p.lo + 1 then BitVec.ofNat 8 (v.toNat / 256) else s.reg j) ∧
    (∀ j, (s.setFull p v).ramp j = if j = p then
      BitVec.ofNat 8 (v.toNat / 65536) &&& (match p with
        | .x => s.params.rampxMask | .y => s.params.rampyMask | .z => s.params.rampzMask) else s.ramp j) ∧
    s.setFull p v = { s with
      regs := (s.setFull p v).regs, rampx := (s.setFull p v).rampx, rampy := (s.setFull p v).rampy
      rampz := (s.setFull p v).rampz }

/-- LD through X, Y and Z, LDD, LDS and IN complete, and change Rd, pc, the debt and what a read changes (R283, R285, R288, R291,
R292, R295, R331). -/
def Obligations.LoadsComplete : Prop :=
  ∀ (d : Reg) (q : BitVec 6) (k : Word) (a : BitVec 6) (s : State),
    s.loads (.ldX d) (s.full .x) d 1 .ldX 1 ∧ s.loads (.ldY d) (s.full .y) d 1 .ldY 1 ∧
    s.loads (.ldZ d) (s.full .z) d 1 .ldZ 1 ∧ s.loads (.lddY d q) (s.displaced .y q) d 1 .lddY 2 ∧
    s.loads (.lddZ d q) (s.displaced .z q) d 1 .lddZ 2 ∧ s.loads (.lds d k) (s.direct k) d 2 .lds 2 ∧
    s.loads (.inp d a) (BitVec.ofNat 24 a.toNat) d 1 .inp 1

/-- LD with post-increment and pre-decrement complete where Rd is no register of the pointer (R281, R286, R287, R289, R290, R293,
R294). -/
def Obligations.UpdatingLoadsComplete : Prop :=
  ∀ (d : Reg) (s : State),
    s.loadsInc (.ldXInc d) .x d .ldXInc ∧ s.loadsInc (.ldYInc d) .y d .ldYInc ∧ s.loadsInc (.ldZInc d) .z d .ldZInc ∧
    s.loadsDec (.ldXDec d) .x d .ldXDec ∧ s.loadsDec (.ldYDec d) .y d .ldYDec ∧ s.loadsDec (.ldZDec d) .z d .ldZDec

/-- The overlap forms of the loads (R282): the critical log comes first, the address is that of the pointer before the instruction,
and the pointer and its extension register end up free. Which free value goes where is the model's choice
(notes/assumptions/20.md). -/
def Obligations.OverlapLoadsComplete : Prop :=
  ∀ (p : Ptr) (d : Reg) (s : State), p.overlaps d = true →
    let inc : Instr := match p with | .x => .ldXInc d | .y => .ldYInc d | .z => .ldZInc d
    let dec : Instr := match p with | .x => .ldXDec d | .y => .ldYDec d | .z => .ldZDec d
    let incForm : Form := match p with | .x => .ldXInc | .y => .ldYInc | .z => .ldZInc
    let decForm : Form := match p with | .x => .ldXDec | .y => .ldYDec | .z => .ldZDec
    s.loadsOverlap inc p (s.record (.undefinedPointerOverlap s.pc (firstWord inc))) incForm 1 ∧
    s.loadsOverlap dec p
      ((s.record (.undefinedPointerOverlap s.pc (firstWord dec))).setFull p (s.full p - 1)) decForm 2

/-- ST through X, Y and Z, STD, STS and OUT complete; every byte of memory but the one addressed is unchanged (R284, R296, R299, R302,
R303, R306, R332). -/
def Obligations.StoresComplete : Prop :=
  ∀ (r : Reg) (q : BitVec 6) (k : Word) (a : BitVec 6) (s : State),
    s.stores (.stX r) (s.full .x) (s.reg r) 1 .stX 1 ∧ s.stores (.stY r) (s.full .y) (s.reg r) 1 .stY 1 ∧
    s.stores (.stZ r) (s.full .z) (s.reg r) 1 .stZ 1 ∧ s.stores (.stdY q r) (s.displaced .y q) (s.reg r) 1 .stdY 2 ∧
    s.stores (.stdZ q r) (s.displaced .z q) (s.reg r) 1 .stdZ 2 ∧ s.stores (.sts k r) (s.direct k) (s.reg r) 2 .sts 2 ∧
    s.stores (.outp a r) (BitVec.ofNat 24 a.toNat) (s.reg r) 1 .outp 1

/-- ST with post-increment and pre-decrement complete: the byte is Rr where it is no register of the pointer (R281, R297, R298, R300,
R301, R304, R305). -/
def Obligations.UpdatingStoresComplete : Prop :=
  ∀ (p : Ptr) (r : Reg) (s : State), p.overlaps r = false →
    let inc : Instr := match p with | .x => .stXInc r | .y => .stYInc r | .z => .stZInc r
    let dec : Instr := match p with | .x => .stXDec r | .y => .stYDec r | .z => .stZDec r
    let incForm : Form := match p with | .x => .stXInc | .y => .stYInc | .z => .stZInc
    let decForm : Form := match p with | .x => .stXDec | .y => .stYDec | .z => .stZDec
    s.storesInc inc p s (s.reg r) incForm ∧ s.storesDec dec p (s.setFull p (s.full p - 1)) (s.reg r) decForm

/-- The overlap forms of the stores (R282): the critical log comes first, the byte written is a free value, and the pointer is
updated as elsewhere. -/
def Obligations.OverlapStoresComplete : Prop :=
  ∀ (p : Ptr) (r : Reg) (s : State), p.overlaps r = true →
    let inc : Instr := match p with | .x => .stXInc r | .y => .stYInc r | .z => .stZInc r
    let dec : Instr := match p with | .x => .stXDec r | .y => .stYDec r | .z => .stZDec r
    let incForm : Form := match p with | .x => .stXInc | .y => .stYInc | .z => .stZInc
    let decForm : Form := match p with | .x => .stXDec | .y => .stYDec | .z => .stZDec
    let logged (i : Instr) : State :=
      { s.record (.undefinedPointerOverlap s.pc (firstWord i)) with draws := s.draws + 1 }
    s.storesInc inc p (logged inc) (Config.draw s.draws) incForm ∧
    s.storesDec dec p ((logged dec).setFull p (s.full p - 1)) (Config.draw s.draws) decForm

/-- LPM and ELPM: the byte of flash, or the fault beyond it; with Z+ the increment of Z alone, or of RAMPZ:Z (R91, R307 to
R312), and the free values of the overlap forms (R282). -/
def Obligations.FlashReads : Prop :=
  ∀ (d : Reg) (s : State),
    let z := (s.reg 31).toNat * 256 + (s.reg 30).toNat
    let ez := s.rampz.toNat * 65536 + z
    s.readsFlash .lpmR0 z 0 .lpmR0 ∧ s.readsFlash (.lpmZ d) z d .lpmZ ∧
    s.readsFlash .elpmR0 ez 0 .elpmR0 ∧ s.readsFlash (.elpmZ d) ez d .elpmZ ∧
    (Ptr.z.overlaps d = false →
      (z < s.params.flashSize → exec (.lpmZInc d) s = .next
        { (s.setReg d (s.flashAt z)).setPair 30 (BitVec.ofNat 16 (z + 1)) with
          pc := s.pc + 1, instructionCycles := s.params.cyclesOf .lpmZInc 3 }) ∧
      (ez < s.params.flashSize → exec (.elpmZInc d) s = .next
        { (s.setReg d (s.flashAt ez)).setFull .z (BitVec.ofNat 24 (ez + 1)) with
          pc := s.pc + 1, instructionCycles := s.params.cyclesOf .elpmZInc 3 })) ∧
    (Ptr.z.overlaps d = true →
      (z < s.params.flashSize → exec (.lpmZInc d) s = .next
        { (s.setReg 30 (Config.draw s.draws)).setReg 31 (Config.draw (s.draws + 1)) with
          log := .undefinedPointerOverlap s.pc (firstWord (.lpmZInc d)) :: s.log, draws := s.draws + 2
          pc := s.pc + 1, instructionCycles := s.params.cyclesOf .lpmZInc 3 }) ∧
      (ez < s.params.flashSize → exec (.elpmZInc d) s = .next
        { ((s.setReg 30 (Config.draw s.draws)).setReg 31 (Config.draw (s.draws + 1))).setRampz
            (Config.draw (s.draws + 2)) with
          log := .undefinedPointerOverlap s.pc (firstWord (.elpmZInc d)) :: s.log, draws := s.draws + 3
          pc := s.pc + 1, instructionCycles := s.params.cyclesOf .elpmZInc 3 })) ∧
    (s.params.flashSize ≤ z → ∃ r, exec (.lpmZInc d) s = .fault (.flashReadOutOfRange z r)) ∧
    (s.params.flashSize ≤ ez → ∃ r, exec (.elpmZInc d) s = .fault (.flashReadOutOfRange ez r))

/-- XCH, LAS, LAC and LAT: one byte at Full(Z) read, and written from it and Rd (R313 to R316). -/
def Obligations.AtomicExchanges : Prop :=
  ∀ (d : Reg) (s : State),
    s.exchanges (.xch d) d (fun _ => s.reg d) .xch ∧ s.exchanges (.las d) d (fun m => s.reg d ||| m) .las ∧
    s.exchanges (.lac d) d (fun m => m &&& ~~~s.reg d) .lac ∧ s.exchanges (.lat d) d (fun m => s.reg d ^^^ m) .lat

/-- The data-space router (R82 to R88): for every address, by the ranges of R80 in their order, what a read answers and leaves and
what a write leaves. In the I/O region it is the block of the registry whose range holds the address (R90): none is logged, reads
0 and ignores the write; the reference GPIOR gives and stores its byte (R410); an external block answers by its hook, and then its
calls are served (what its hook can peek at is the model's choice: notes/assumptions/34.md). CpuRegistersByIo, ClockRegisters and
PmicRegisters say what the registers of those blocks do. -/
def Obligations.DataSpaceRouter : Prop :=
  ∀ (a : DataAddr) (v : Byte) (s : State),
    let n := a.toNat
    let p := s.params
    if n < 0x1000 then
      (ioOwner p n = none ↔ ∀ b ∈ p.registry, n < b.ioBase ∨ b.ioBase + b.ioSize ≤ n) ∧
      (∀ k b, ioOwner p n = some (k, b) → p.registry[k]? = some b ∧ b.ioBase ≤ n ∧ n < b.ioBase + b.ioSize) ∧
      match ioOwner p n with
      | none => memRead a s = .ok (0, { s with log := .ioNoBlock n :: s.log }) ∧
        memWrite a v s = .ok { s with log := .ioNoBlock n :: s.log }
      | some (k, b) =>
        let i := n - b.ioBase
        let get := Config.extGetIo k (s.extData k) i s.peek
        let set := Config.extSetIo k (s.extData k) i v s.peek
        let after (r : HookReply) : Act :=
          serveAll k (if b.callsCore then r.calls else []) { s with ext := s.ext.set k r.data }
        match b.kind with
        | .cpu => memRead a s = .ok (cpuRead i s) ∧ memWrite a v s = .ok (cpuWrite i v s)
        | .clk => memRead a s = .ok (clkRead i s) ∧ memWrite a v s = .ok (clkWrite i n v s)
        | .pmic => memRead a s = .ok (pmicRead i s, s) ∧ memWrite a v s = .ok (pmicWrite i n v s)
        | .gpior => memRead a s = .ok (s.gpior[Fin.ofNat 16 i], s) ∧ ∃ t, memWrite a v s = .ok t ∧
          t = { s with gpior := t.gpior } ∧ ∀ j : Fin 16, t.gpior[j] = if j.val = i % 16 then v else s.gpior[j]
        | .external => memRead a s = (after get).map (get.value, ·) ∧ memWrite a v s = after set
    else if n < 0x1000 + p.eepromSize then
      memRead a s = .ok (Config.draw s.draws, { s with draws := s.draws + 1, log := .eepromStub n :: s.log }) ∧
      memWrite a v s = .ok { s with log := .eepromStub n :: s.log }
    else if 0x2000 ≤ n ∧ n < 0x2000 + p.sramSize then
      memRead a s = .ok (s.sramAt n, s) ∧ memWrite a v s = .ok { s with sram := memSet s.sram n v } ∧
      (∀ b, { s with sram := memSet s.sram n v }.sramAt b = if b = n then v else s.sramAt b)
    else if 0xFF00 ≤ n ∧ n < 0x10000 then
      memRead a s = (if n < 0xFF04 then .ok (BitVec.ofNat 8 (s.sched.currentSysTick / 256 ^ (n - 0xFF00)), s)
        else .ok (Config.draw s.draws, { s with draws := s.draws + 1 })) ∧
      memWrite a v s = .ok { s with log := .readOnlyWrite n :: s.log }
    else if 0 < p.exsramSize ∧ p.exsramStart ≤ n ∧ n < p.exsramStart + p.exsramSize then
      memRead a s = .ok (Config.draw s.draws, { s with draws := s.draws + 1, log := .exsramStub n :: s.log }) ∧
      memWrite a v s = .ok { s with log := .exsramStub n :: s.log }
    else memRead a s = .ok (0, { s with log := .unmapped n :: s.log }) ∧
      memWrite a v s = .ok { s with log := .unmapped n :: s.log }

/-! ## I/O registers -/

/-- SBI and CBI complete with one read and one write of the byte (R333, R334); on the reference GPIOR (R410) exactly bit b of the
byte changes. -/
def Obligations.IoBitInstructions : Prop :=
  ∀ (a : BitVec 5) (b : Bit) (set : Bool) (s : State),
    let i : Instr := if set then .sbi a b else .cbi a b
    let f : Form := if set then .sbi else .cbi
    let at_ : DataAddr := BitVec.ofNat 24 a.toNat
    (quietAt s.params at_ = true → ∃ v w t u, memRead at_ s = .ok (v, t) ∧ s.afterRead t ∧
      (∀ k : Bit, (w : Byte).getLsbD k = if k = b then set else v.getLsbD k) ∧
      memWrite at_ w t = .ok u ∧ t.afterWrite u at_ ∧
      exec i s = .next { u with pc := s.pc + 1, instructionCycles := s.params.cyclesOf f 1 }) ∧
    (∀ n g, ioOwner s.params a.toNat = some (n, g) → g.kind = .gpior → ∃ t, exec i s = .next t ∧
      (∀ k : Bit, (t.gpiorAt (a.toNat - g.ioBase)).getLsbD k =
        if k = b then set else (s.gpiorAt (a.toNat - g.ioBase)).getLsbD k) ∧
      (∀ j : Fin 16, j.val ≠ (a.toNat - g.ioBase) % 16 → t.gpior[j] = s.gpior[j]) ∧
      t = { s with gpior := t.gpior, pc := s.pc + 1, instructionCycles := s.params.cyclesOf f 1 })

/-- IN and OUT on the registers of the CPU block (R42, R44, R45, R47, R48): CCP with its windows, the masked extension registers, SP
by halves, SREG, and the reserved addresses, whose reads are free and whose writes do nothing. -/
def Obligations.CpuRegistersByIo : Prop :=
  ∀ (d r : Reg) (a : BitVec 6) (s : State),
    let v := s.reg r
    let out (t : State) : Result := .next { t with pc := s.pc + 1, instructionCycles := s.params.cyclesOf .outp 1 }
    let inn (w : Byte) : Result := .next { s with
      regs := s.regs.set d w, pc := s.pc + 1, instructionCycles := s.params.cyclesOf .inp 1 }
    (exec (.outp 0x34 r) s = out { s with
      ccpReg := v, ccpIoreg := if v = 0x9D then 4 else s.ccpIoreg, ccpSpm := if v = 0xD8 then 4 else s.ccpSpm }) ∧
    (exec (.outp 0x38 r) s = out { s with rampd := v &&& s.params.rampdMask }) ∧
    (exec (.outp 0x39 r) s = out { s with rampx := v &&& s.params.rampxMask }) ∧
    (exec (.outp 0x3A r) s = out { s with rampy := v &&& s.params.rampyMask }) ∧
    (exec (.outp 0x3B r) s = out { s with rampz := v &&& s.params.rampzMask }) ∧
    (exec (.outp 0x3C r) s = out { s with eind := v &&& s.params.eindMask }) ∧
    (exec (.outp 0x3D r) s = out { s with sp := BitVec.ofNat 16 (s.sp.toNat / 256 * 256 + v.toNat) }) ∧
    (exec (.outp 0x3E r) s = out { s with sp := BitVec.ofNat 16 (v.toNat * 256 + s.sp.toNat % 256) }) ∧
    (exec (.outp 0x3F r) s = out { s with sreg := v }) ∧
    (exec (.inp d 0x34) s = inn s.ccpReg) ∧ (exec (.inp d 0x38) s = inn s.rampd) ∧ (exec (.inp d 0x39) s = inn s.rampx) ∧
    (exec (.inp d 0x3A) s = inn s.rampy) ∧ (exec (.inp d 0x3B) s = inn s.rampz) ∧ (exec (.inp d 0x3C) s = inn s.eind) ∧
    (exec (.inp d 0x3D) s = inn (BitVec.ofNat 8 s.sp.toNat)) ∧
    (exec (.inp d 0x3E) s = inn (BitVec.ofNat 8 (s.sp.toNat / 256))) ∧ (exec (.inp d 0x3F) s = inn s.sreg) ∧
    (a ∈ ([0x30, 0x31, 0x32, 0x33, 0x35, 0x36, 0x37] : List (BitVec 6)) → exec (.outp a r) s = out s ∧
      exec (.inp d a) s = .next { s with
        regs := s.regs.set d (Config.draw s.draws), draws := s.draws + 1, pc := s.pc + 1
        instructionCycles := s.params.cyclesOf .inp 1 })

/-- The CLK registers (R450, R452 to R454): protected writes need an open CCP window, CTRL and PSCTRL also an unset LOCK, else they
are logged; a reserved PSADIV code is logged; LOCK only ever sets; an accepted PSCTRL rescales every event. -/
def Obligations.ClockRegisters : Prop :=
  ∀ (v : Byte) (s : State), s.params.valid = true →
    let unlocked := 0 < s.ccpIoreg ∧ s.clk.lock.getLsbD 0 = false
    let refused (a : Nat) : Act := .ok { s with log := .clkLockedWrite a :: s.log }
    memWrite 0x40 v s = (if unlocked then .ok (s.setClk { s.clk with ctrl := v &&& 0x07 }) else refused 0x40) ∧
    memWrite 0x41 v s = (if unlocked then
        if prescA v = none then .ok { s with log := .clkReservedValue v :: s.log }
        else .ok { s with
          clk := { s.clk with psctrl := v &&& 0x7F }
          sched := { s.sched with
            heap := s.sched.heap.map (Event.rescale (v &&& 0x7F) s.sched.currentSysTick)
            running := s.sched.running.map (Event.rescale (v &&& 0x7F) s.sched.currentSysTick) } }
      else refused 0x41) ∧
    memWrite 0x42 v s = (if 0 < s.ccpIoreg then .ok (s.setClk { s.clk with lock := s.clk.lock ||| (v &&& 1) })
      else refused 0x42) ∧
    memWrite 0x43 v s = .ok (s.setClk { s.clk with rtcctrl := v }) ∧
    memRead 0x40 s = .ok (s.clk.ctrl, s) ∧ memRead 0x41 s = .ok (s.clk.psctrl, s) ∧
    memRead 0x42 s = .ok (s.clk.lock, s) ∧ memRead 0x43 s = .ok (s.clk.rtcctrl, s) ∧
    (∀ k : Fin 4, memWrite (BitVec.ofNat 24 (0x44 + k)) v s = .ok s ∧
      memRead (BitVec.ofNat 24 (0x44 + k)) s = .ok (Config.draw s.draws, { s with draws := s.draws + 1 }))

/-- The PMIC registers (R421 to R423): STATUS reads its four bits and a write to it is logged and ignored; INTPRI and CTRL are
stored whole. -/
def Obligations.PmicRegisters : Prop :=
  ∀ (v : Byte) (s : State), s.params.valid = true →
    memRead 0xA0 s = .ok (BitVec.ofNat 8 s.pmic.status.toNat, s) ∧
    memWrite 0xA0 v s = .ok { s with log := .readOnlyWrite 0xA0 :: s.log } ∧
    memRead 0xA1 s = .ok (s.pmic.intpri, s) ∧ memWrite 0xA1 v s = .ok { s with pmic := { s.pmic with intpri := v } } ∧
    memRead 0xA2 s = .ok (s.pmic.ctrl, s) ∧ memWrite 0xA2 v s = .ok { s with pmic := { s.pmic with ctrl := v } }

/-! ## Control flow, stack, skips, the rest -/

/-- JMP, RJMP, IJMP, BRBS and BRBC: where pc goes, and nothing else but the debt (R341 to R343, R351, R352). -/
def Obligations.JumpResults : Prop :=
  ∀ (k22 : BitVec 22) (k12 : BitVec 12) (k7 : BitVec 7) (f : Bit) (s : State),
    let to_ (pc : Int) (form : Form) (n : Nat) : Result := .next { s with
      pc := pc, instructionCycles := s.params.cyclesOf form n }
    let branch : Int := s.pc + 1 + (if k7.toNat < 64 then (k7.toNat : Int) else k7.toNat - 128)
    exec (.jmp k22) s = to_ k22.toNat .jmp 3 ∧
    exec (.rjmp k12) s = to_ (s.pc + 1 + if k12.toNat < 2048 then (k12.toNat : Int) else k12.toNat - 4096) .rjmp 2 ∧
    exec .ijmp s = to_ ((s.reg 31).toNat * 256 + (s.reg 30).toNat) .ijmp 2 ∧
    exec (.brbs f k7) s = (if s.sreg.getLsbD f then to_ branch .brbs 2 else to_ (s.pc + 1) .brbs 1) ∧
    exec (.brbc f k7) s = (if s.sreg.getLsbD f then to_ (s.pc + 1) .brbc 1 else to_ branch .brbc 2)

/-- EIJMP and EICALL: EIND:Z with a 3-byte pc, and the logged fallback on a small flash (R344, R348). -/
def Obligations.ExtendedJumpResults : Prop :=
  ∀ s : State,
    let target : Int := s.eind.toNat * 65536 + (s.reg 31).toNat * 256 + (s.reg 30).toNat
    let fallback (f : Form) : Result := .next { s with
      log := .eindOnSmallFlash s.pc :: s.log, pc := s.pc + 1, instructionCycles := s.params.cyclesOf f 1 }
    (0x20000 < s.params.flashSize →
      exec .eijmp s = .next { s with pc := target, instructionCycles := s.params.cyclesOf .eijmp 2 } ∧
      s.calls .eicall (s.pc + 1) target .eicall 3) ∧
    (s.params.flashSize ≤ 0x20000 → exec .eijmp s = fallback .eijmp ∧ exec .eicall s = fallback .eicall)

/-- CALL, RCALL and ICALL push the return address, least significant byte first, and write pc (R94, R345 to R347). -/
def Obligations.CallResults : Prop :=
  ∀ (k22 : BitVec 22) (k12 : BitVec 12) (s : State),
    let by_ (a b : Nat) : Nat := if 0x20000 < s.params.flashSize then b else a
    s.calls (.call k22) (s.pc + 2) k22.toNat .call (by_ 3 4) ∧
    s.calls (.rcall k12) (s.pc + 1)
      (s.pc + 1 + if k12.toNat < 2048 then (k12.toNat : Int) else k12.toNat - 4096) .rcall (by_ 2 3) ∧
    s.calls .icall (s.pc + 1) ((s.reg 31).toNat * 256 + (s.reg 30).toNat) .icall (by_ 2 3)

/-- RET and RETI pop the return address, most significant byte first; RETI also clears a level as R434 says and does not set I
(R94, R349, R350). -/
def Obligations.ReturnResults : Prop :=
  ∀ s : State, canPop s s.params.retBytes = true →
    let n := if 0x20000 < s.params.flashSize then 5 else 4
    let back (t : State) (f : Form) : Result := .next { t with
      sp := s.sp + BitVec.ofNat 16 s.params.retBytes, pc := s.returnAddress
      instructionCycles := s.params.cyclesOf f n }
    exec .ret s = back s .ret ∧ exec .reti s = back (pmicRetiClear s) .reti

/-- What a call pushes a return gives back: the address modulo 2^16, or 2^24 with a 3-byte pc, SP as before, and no other change. -/
def Obligations.ReturnUndoesCall : Prop :=
  ∀ (s t : State) (v : Int), canPush s s.params.retBytes = true → pushPc v s = .ok t →
    popPc t = .ok (v % (if 0x20000 < s.params.flashSize then 16777216 else 65536), { s with sram := t.sram })

/-- PUSH stores at SP and decrements it, POP increments SP and reads there (R43, R371, R372). -/
def Obligations.PushPopResults : Prop :=
  ∀ (r d : Reg) (s : State),
    (canPush s 1 = true → exec (.push r) s = .next { s with
      sram := memSet s.sram s.sp.toNat (s.reg r), sp := BitVec.ofNat 16 (s.sp.toNat - 1), pc := s.pc + 1
      instructionCycles := s.params.cyclesOf .push 1 }) ∧
    (canPop s 1 = true → exec (.pop d) s = .next { s with
      regs := s.regs.set d (s.sramAt ((s.sp.toNat + 1) % 65536)), sp := BitVec.ofNat 16 (s.sp.toNat + 1), pc := s.pc + 1
      instructionCycles := s.params.cyclesOf .pop 2 })

/-- R95: a push at an address outside internal SRAM, or a pop after the increment, stops with that address. A byte so refused is
not written; the bytes of a return address pushed or popped before it keep their effect in the recorded state, as does RETI's level
clear and a dispatch's acknowledgement (R403, R433). -/
def Obligations.StackOutsideSramFaults : Prop :=
  ∀ (r d : Reg) (x : Byte) (v : Int) (k22 : BitVec 22) (k12 : BitVec 12) (l : Level) (iv : Nat) (s : State),
    let outside (a : Word) : Prop := a.toNat < 0x2000 ∨ 0x2000 + s.params.sramSize ≤ a.toNat
    let up := s.setSp (s.sp + 1)
    let at_ (t : State) : Fault := .stackOutsideSram t.sp.toNat { t with fault := some (.stackOutsideSram t.sp.toNat) }
    (outside s.sp → push8 x s = .error (at_ s) ∧ exec (.push r) s = .fault (at_ s)) ∧
    (outside up.sp → pop8 s = .error (at_ up) ∧ exec (.pop d) s = .fault (at_ up)) ∧
    (∀ j, j < s.params.retBytes → (j = 0 ∨ canPush s j = true) → outside (s.sp - BitVec.ofNat 16 j) →
      (∃ f, s.pushStops v j f ∧ pushPc v s = .error f) ∧
      (∃ f, s.pushStops (s.pc + 2) j f ∧ exec (.call k22) s = .fault f) ∧
      (∃ f, s.pushStops (s.pc + 1) j f ∧ exec (.rcall k12) s = .fault f) ∧
      (∃ f, s.pushStops (s.pc + 1) j f ∧ exec .icall s = .fault f) ∧
      (0x20000 < s.params.flashSize → ∃ f, s.pushStops (s.pc + 1) j f ∧ exec .eicall s = .fault f) ∧
      ∃ f, (s.setPmic (s.pmic.acknowledge l iv)).pushStops s.pc j f ∧ dispatch l iv s = .error f) ∧
    (∀ j, j < s.params.retBytes → (j = 0 ∨ canPop s j = true) → outside (s.sp + BitVec.ofNat 16 (j + 1)) →
      (∃ f, s.popStops j f ∧ popPc s = .error f) ∧ (∃ f, s.popStops j f ∧ exec .ret s = .fault f) ∧
      ∃ f, (pmicRetiClear s).popStops j f ∧ exec .reti s = .fault f)

/-- CPSE, SBRC, SBRS, SBIC and SBIS skip by R380, the last two after reading the I/O register (R381 to R385). -/
def Obligations.SkipResults : Prop :=
  ∀ (d r : Reg) (b : Bit) (a : BitVec 5) (s : State),
    s.skips (exec (.cpse d r) s) (decide ((s.reg d).toNat = (s.reg r).toNat)) .cpse ∧
    s.skips (exec (.sbrc r b) s) (!(s.reg r).getLsbD b) .sbrc ∧ s.skips (exec (.sbrs r b) s) ((s.reg r).getLsbD b) .sbrs ∧
    (quietAt s.params (BitVec.ofNat 24 a.toNat) = true → ∃ v t, memRead (BitVec.ofNat 24 a.toNat) s = .ok (v, t) ∧
      s.afterRead t ∧ t.skips (exec (.sbic a b) s) (!v.getLsbD b) .sbic ∧ t.skips (exec (.sbis a b) s) (v.getLsbD b) .sbis)

/-- NOP and the stubs change pc and the debt only; BREAK also sets `breaked` (R390 to R398). -/
def Obligations.PlainInstructions : Prop :=
  ∀ (k : BitVec 4) (s : State),
    let on (f : Form) : Result := .next { s with pc := s.pc + 1, instructionCycles := s.params.cyclesOf f 1 }
    exec .nop s = on .nop ∧ exec .sleep s = on .sleep ∧ exec .wdr s = on .wdr ∧ exec (.des k) s = on .des ∧
    exec .spm s = on .spm ∧ exec .spmZInc s = on .spmZInc ∧
    exec .brk s = .next { s with breaked := true, pc := s.pc + 1, instructionCycles := s.params.cyclesOf .brk 1 }

/-! ## Interrupts -/

/-- `current_level()` is the highest level whose status bit is set, or NONE (R424). -/
def Obligations.CurrentLevelIsHighest : Prop :=
  ∀ p : Pmic,
    (p.currentLevel = .none ↔ p.status = 0) ∧
    (p.status ≠ 0 → p.status.getLsbD (p.currentLevel.num - 1) = true) ∧
    ∀ k : Nat, p.status.getLsbD k = true → k < p.currentLevel.num

/-- `set_iv_level` puts the vector in the set of its level and in no other, or out of all for level 0, and leaves every other vector
alone, so that level L and then NONE leave every other vector as it was and this one nowhere; an invalid level or vector only logs, as
critical (R425). -/
def Obligations.SetIvLevelPlaces : Prop :=
  ∀ (iv level : Int) (s : State),
    (0 ≤ level → level ≤ 4 → 0 ≤ iv → iv < 0x80 → ∃ p, setIvLevel iv level s = { s with pmic := p } ∧
      p = { s.pmic with lo := p.lo, med := p.med, hi := p.hi, nmi := p.nmi } ∧
      (∀ k x, k ≠ .none → (x ∈ p.pending k ↔ if (x : Int) = iv then level = k.num else x ∈ s.pmic.pending k)) ∧
      ∀ k x, x ∈ (setIvLevel iv 0 (setIvLevel iv level s)).pmic.pending k ↔ x ∈ s.pmic.pending k ∧ (x : Int) ≠ iv) ∧
    ((level < 0 ∨ 4 < level ∨ iv < 0 ∨ 0x80 ≤ iv) → setIvLevel iv level s = { s with log := .invalidIntLevel iv level :: s.log } ∧
      (LogRecord.invalidIntLevel iv level).severity = .critical)

/-- Arbitration answers a vector exactly by R426: NMI first, then each enabled level above the current one, the lowest vector of the
level's set. -/
def Obligations.ArbitrationOrder : Prop :=
  ∀ (p : Pmic) (re : Bool), p.wf = true →
    let cur := p.currentLevel.num
    let least (l : List Nat) (iv : Nat) : Prop := iv ∈ l ∧ ∀ x ∈ l, iv ≤ x
    let nmi := p.nmi ≠ [] ∧ (re = true ∨ cur < 4)
    let hi := p.ctrl.getLsbD 2 = true ∧ cur < 3 ∧ p.hi ≠ []
    let med := p.ctrl.getLsbD 1 = true ∧ cur < 2 ∧ p.med ≠ []
    let lo := p.ctrl.getLsbD 0 = true ∧ cur < 1 ∧ p.lo ≠ []
    (nmi → ∃ iv, least p.nmi iv ∧ p.arbitrate re = some (.nmi, iv)) ∧
    (¬ nmi → hi → ∃ iv, least p.hi iv ∧ p.arbitrate re = some (.hi, iv)) ∧
    (¬ nmi → ¬ hi → med → ∃ iv, least p.med iv ∧ p.arbitrate re = some (.med, iv)) ∧
    (¬ nmi → ¬ hi → ¬ med → lo → ∃ iv, least p.lo iv ∧ p.arbitrate re = some (.lo, iv)) ∧
    (¬ nmi → ¬ hi → ¬ med → ¬ lo → p.arbitrate re = none)

/-- A CPU step in which no instruction runs (R430, R431, R511): while debt is owed it only counts down; and when the conditions of
R430 hold and arbitration finds a vector, the interrupt is taken: pc pushed and sent to the vector, the pending bit moved to STATUS,
five cycles charged (one of them paid at once), SREG and every register unchanged. -/
def Obligations.StepsWithoutInstruction : Prop :=
  ∀ (s : State) (l : Level) (iv : Nat),
    (0 < s.instructionCycles → cpuStep s = .next { s with
      breaked := false, ccpIoreg := s.ccpIoreg - 1, ccpSpm := s.ccpSpm - 1, instructionCycles := s.instructionCycles - 1 }) ∧
    (s.instructionCycles = 0 → s.interruptWait = false → s.sreg.getLsbD 7 = true → s.ccpIoreg ≤ 1 → s.ccpSpm ≤ 1 →
      s.pmic.arbitrate s.params.nmiReentrant = some (l, iv) → canPush s s.params.retBytes = true →
      quietIv s.params iv = true →
      ∃ t, cpuStep s = .next t ∧ s.pushed t s.params.retBytes s.pc ∧
        (∀ k x, x ∈ t.pmic.pending k ↔ x ∈ s.pmic.pending k ∧ ¬ (k = l ∧ x = iv)) ∧
        t.pmic.status = s.pmic.status ||| BitVec.ofNat 4 (2 ^ (l.num - 1)) ∧
        t.pmic = { s.pmic with status := t.pmic.status, lo := t.pmic.lo, med := t.pmic.med, hi := t.pmic.hi, nmi := t.pmic.nmi } ∧
        t = { s with
          sram := t.sram, sp := t.sp, pmic := t.pmic, ext := t.ext
          pc := 2 * iv + if s.pmic.ctrl.getLsbD 6 then (s.params.flashSize - s.params.flashBootSize) / 2 else 0
          breaked := false, ccpIoreg := 0, ccpSpm := 0, instructionCycles := 4, interruptWait := true })

/-- RETI's level clear (R434): the highest status bit, alone; with none set only a critical log. RETI leaves SREG, and so I, alone. -/
def Obligations.RetiClearsHighestLevel : Prop :=
  ∀ s : State,
    let n := s.pmic.status.toNat
    let to_ (m : Nat) : State := { s with pmic := { s.pmic with status := BitVec.ofNat 4 m } }
    (pmicRetiClear s = if 8 ≤ n then to_ (n - 8) else if 4 ≤ n then to_ (n - 4) else if 2 ≤ n then to_ (n - 2)
      else if 1 ≤ n then to_ (n - 1) else { s with log := .retiNoActiveLevel s.pc :: s.log }) ∧
    (LogRecord.retiNoActiveLevel s.pc).severity = .critical ∧ ∀ t, exec .reti s = .next t → t.sreg = s.sreg

/-! ## Clock and scheduler -/

/-- The prescaler codes and the domain scales of R451 and R455. -/
def Obligations.DomainScales : Prop :=
  ∀ psctrl : Byte,
    let code := psctrl.toNat / 4 % 32
    let bc := psctrl.toNat % 4
    let a := if code = 0 then 1 else 2 ^ ((code + 1) / 2)
    let b := if bc = 2 then 4 else if bc = 3 then 2 else 1
    let c := if bc = 1 ∨ bc = 3 then 2 else 1
    ((prescA psctrl).isSome = true ↔ code = 0 ∨ (code % 2 = 1 ∧ code ≤ 17)) ∧
    scaleOf psctrl .sys = 1 ∧ scaleOf psctrl .asy = 1 ∧
    ((prescA psctrl).isSome = true → scaleOf psctrl .cpu = a * b * c ∧ scaleOf psctrl .per = a * b * c ∧
      scaleOf psctrl .per2 = a * b ∧ scaleOf psctrl .per4 = a)

/-- `on_clock_config_change` (R466): an event whose scale stays is untouched; one whose scale changes keeps the domain ticks that
remain, rounded up, and its handle, domain, callback, priority and number. -/
def Obligations.RescaleKeepsRemainingTicks : Prop :=
  ∀ (psctrl : Byte) (now k : Nat) (e : Event), 0 < e.scale →
    let f := e.rescale psctrl now
    f.scale = scaleOf psctrl e.domain ∧ f = { e with tick := f.tick, scale := f.scale } ∧
    (e.scale = scaleOf psctrl e.domain → f = e) ∧
    (e.scale ≠ scaleOf psctrl e.domain → e.tick ≤ now + k * e.scale → now + k * e.scale < e.tick + e.scale →
      now ≤ e.tick → f.tick = now + k * f.scale)

/-- `schedule` and `unschedule` (R464, R465, R467): refused without ticks and while a callback runs; else one event is added on a
domain-tick boundary after now, with a handle and a number above those of the heap, and both counters moved on, or the events of a
handle are taken out. That a call without ticks while a callback runs is ScheduleZeroTicks, where R464 and R467 name both faults,
is the model's choice (notes/assumptions/22.md); so is that a refusal on a device that holds a fault mark writes the new mark over
the old one (notes/assumptions/36.md), and that a call on a device never reset is served (notes/assumptions/37.md). No handle
names the CPU event (R468; notes/assumptions/32.md). What a hook can peek at is the model's choice (notes/assumptions/34.md). A
hook of an external block that the host calls (R523) has its calls served as a call between steps, and an event so added is that
block's own (notes/assumptions/33.md); of a block of another kind the host calls no hook (R506). -/
def Obligations.SchedulingCalls : Prop :=
  ∀ (d : Domain) (cb : Callback) (n : Nat) (pri : Int) (h : Nat) (call : ServiceCall) (s : State),
    (n = 0 → schedule d cb n pri call s =
      .error (.scheduleZeroTicks d pri { s with fault := some (.scheduleZeroTicks d pri) })) ∧
    (0 < n → s.sched.running ≠ none → schedule d cb n pri call s =
      .error (.callbackHeapMutation call { s with fault := some (.callbackHeapMutation call) })) ∧
    (0 < n → s.sched.running = none → s.sched.wf s.clk.psctrl = true → ∃ e t, schedule d cb n pri call s = .ok (e.handle, t) ∧
      t.sched = { s.sched with
        heap := s.sched.heap ++ [e], nextHandle := s.sched.nextHandle + 1, nextSeq := s.sched.nextSeq + 1 } ∧
      e.handle = s.sched.nextHandle ∧ e.seq = s.sched.nextSeq ∧ e.domain = d ∧ e.callback = cb ∧ e.priority = pri ∧
      e.scale = scaleOf s.clk.psctrl d ∧ e.tick % e.scale = 0 ∧ e.tick / e.scale = s.sched.currentSysTick / e.scale + n ∧
      s.sched.currentSysTick < e.tick ∧ (∀ g ∈ s.sched.heap, g.handle < e.handle ∧ g.seq < e.seq) ∧
      t = { s with sched := t.sched, log := t.log } ∧ t.log = if d = .asy then .asyDomain :: s.log else s.log) ∧
    (s.sched.running ≠ none → unschedule h s = .error (.callbackHeapMutation (.unschedule h)
      { s with fault := some (.callbackHeapMutation (.unschedule h)) })) ∧
    (s.sched.running = none → (∀ e ∈ s.sched.heap, e.callback = .cpuStep ∨ e.handle ≠ h) →
      unschedule h s = .ok { s with log := .unscheduleUnknown h :: s.log }) ∧
    (s.sched.running = none → (∃ e ∈ s.sched.heap, e.callback ≠ .cpuStep ∧ e.handle = h) →
      ∃ c, unschedule h s = .ok { s with sched := c } ∧ c = { s.sched with heap := c.heap } ∧
        ∀ e, e ∈ c.heap ↔ e ∈ s.sched.heap ∧ (e.callback = .cpuStep ∨ e.handle ≠ h)) ∧
    (∀ tag, hostSchedule d tag n pri s =
      schedule d (.client s.params.registry.length tag) n pri (.schedule d tag n pri) s) ∧
    (∀ k b a x, s.params.registry[k]? = some b → b.kind = .external →
      let get := Config.extGetIo k (s.extData k) a s.peek
      (a < b.ioSize → hostGetIo k a s = some ((hookReply k b get s).map (get.value, ·)) ∧
        hostSetIo k a x s = some (hookReply k b (Config.extSetIo k (s.extData k) a x s.peek) s)) ∧
      (a < b.ivCount → hostExecuteIv k a s = some (hookReply k b (Config.extExecuteIv k (s.extData k) a s.peek) s))) ∧
    (∀ k a x, (∀ b, s.params.registry[k]? = some b → b.kind ≠ .external) →
      hostGetIo k a s = none ∧ hostSetIo k a x s = none ∧ hostExecuteIv k a s = none) ∧
    (∀ k b r tag, b.callsCore = true → r.calls = [.schedule d tag n pri] →
      hookReply k b r s = (schedule d (.client k tag) n pri (.schedule d tag n pri)
        { s with ext := s.ext.set k r.data }).map Prod.snd)

/-- The event a step fires first (R462): the least by tick, then priority, then insertion number. A step moves time to its tick,
fires it, and then fires what else is due by then, earliest first, for at most as many more as the heap held (R463;
notes/assumptions/16.md); with an empty heap it logs and stops (R469), and on a device that holds a fault mark it stops with that
fault again (R16; the form of the answer: notes/assumptions/11.md). What firing an event does (R463): it leaves the heap and runs;
a client's callback answers the block's next state, its ticks and its calls, of which `set_iv_level` is served and any other stops
the step (R467); then the running event is dropped for 0 ticks, or goes back that many ticks of its present scale later with a
fresh number. What a callback can peek at is the model's choice (notes/assumptions/34.md). -/
def Obligations.EarliestEventFirst : Prop :=
  (∀ (h : List Event), (h.map Event.seq).Nodup →
    (minEvent h = none ↔ h = []) ∧
    ∀ e, minEvent h = some e ↔ e ∈ h ∧ ∀ f ∈ h, f ≠ e →
      e.tick < f.tick ∨ (e.tick = f.tick ∧ (e.priority < f.priority ∨ (e.priority = f.priority ∧ e.seq < f.seq)))) ∧
  (∀ s : State, s.usable = true →
    (∀ m, s.fault = some m → step s = .fault (match m with
      | .fetchOutOfRange a => .fetchOutOfRange a s
      | .stackOutsideSram a => .stackOutsideSram a s
      | .flashReadOutOfRange a => .flashReadOutOfRange a s
      | .schedulerEmpty => .schedulerEmpty s
      | .scheduleZeroTicks d pri => .scheduleZeroTicks d pri s
      | .callbackHeapMutation c => .callbackHeapMutation c s)) ∧
    (s.fault = none → s.sched.heap = [] →
      step s = .fault (.schedulerEmpty { s with log := .schedulerEmpty :: s.log, fault := some .schedulerEmpty }) ∧
      LogRecord.schedulerEmpty.severity = .critical) ∧
    (∀ e, s.fault = none → minEvent s.sched.heap = some e →
      step s = andThen (fireEvent e { s with sched := { s.sched with currentSysTick := e.tick } })
        (fireDue (s.sched.heap.length - 1)))) ∧
  (∀ (n : Nat) (s : State), fireDue 0 s = .next s ∧
    (s.sched.heap = [] → fireDue (n + 1) s = .next s) ∧
    ∀ e, minEvent s.sched.heap = some e →
      (s.sched.currentSysTick < e.tick → fireDue (n + 1) s = .next s) ∧
      (e.tick ≤ s.sched.currentSysTick → fireDue (n + 1) s = andThen (fireEvent e s) (fireDue n))) ∧
  ∀ (e : Event) (s : State),
    let back (n : Nat) (t : State) (r : Event) : State := { t with sched := { t.sched with
      running := none
      heap := t.sched.heap ++ if n = 0 then [] else [{ r with tick := r.tick + n * r.scale, seq := t.sched.nextSeq }]
      nextSeq := t.sched.nextSeq + if n = 0 then 0 else 1 } }
    let fired : State := { s with sched := { s.sched with heap := s.sched.heap.erase e, running := some e } }
    (∀ n r, s.sched.running = some r → endCallback n s = back n s r) ∧
    (e.callback = .cpuStep → fireEvent e s = andThen (cpuStep fired) (fun t => .next (endCallback 1 t))) ∧
    (∀ owner tag, e.callback = .client owner tag →
      let r := Config.extCallback owner tag (s.extData owner) s.peek
      let u : State := { fired with ext := s.ext.set owner r.data }
      let levels := ∀ c ∈ r.calls, ∃ iv level, c = .setIvLevel iv level
      (levels ∧ ∃ t, serveAll owner r.calls u = .ok t ∧ t = { u with pmic := t.pmic, log := t.log } ∧
        fireEvent e s = .next (back r.ticks t e)) ∨
      (¬ levels ∧ ∃ f, fireEvent e s = .fault f))

/-! ## Host actions and reset -/

/-- `load_flash` (R504) stores the image little-endian and keeps the words past it, or leaves a device without a step (also where
a fault mark stands: notes/assumptions/39.md); `set_pc` (R38) writes pc in range, and out of range leaves all but the log and says
so; that the log then gets the record of R402 is the model's reading (R401, R402, notes/assumptions/19.md), and that the record
carries the refused address its choice (notes/assumptions/35.md). -/
def Obligations.HostLoads : Prop :=
  ∀ (image : List Byte) (v : Nat) (s : State), s.memWf = true →
    (image.length % 2 = 0 → image.length ≤ 2 * s.params.flashWords → ∃ t, loadFlashImage image s = t ∧
      t = { s with flash := t.flash } ∧
      ∀ w, t.flashWord w = if h : 2 * w + 1 < image.length then
        BitVec.ofNat 16 (image[2 * w].toNat + 256 * image[2 * w + 1].toNat) else s.flashWord w) ∧
    ((image.length % 2 = 1 ∨ 2 * s.params.flashWords < image.length) →
      step (loadFlashImage image s) = .refused .deviceUnusable) ∧
    (v < s.params.flashWords → setPcHost v s = ({ s with pc := v }, true)) ∧
    (s.params.flashWords ≤ v → setPcHost v s = ({ s with log := .setPcOutOfRange v :: s.log }, false))

/-- `reset()` from any state between steps, on a device whose blocks call no service of the core, leaves what R502 states: every
register, CCP, PMIC and CLK field, the tick and the heap at their reset values, and flash, SRAM and the log as before. -/
def Obligations.ResetLeaves : Prop :=
  ∀ s : State, s.sched.running = none → quietBlocks s.params = true → ∃ t, hostReset s = .ok t ∧
    (∀ j, t.reg j = 0) ∧ t.pc = 0 ∧ t.sp = BitVec.ofNat 16 (0x2000 + s.params.sramSize - 1) ∧ t.sreg = 0 ∧
    t.rampd = 0 ∧ t.rampx = 0 ∧ t.rampy = 0 ∧ t.rampz = 0 ∧ t.eind = 0 ∧ t.ccpReg = 0 ∧ t.ccpIoreg = 0 ∧ t.ccpSpm = 0 ∧
    t.instructionCycles = 0 ∧ t.interruptWait = false ∧ t.breaked = false ∧
    t.pmic = ⟨[], [], [], [], 0, 0, 0⟩ ∧ t.clk = ⟨0, 0, 0, 0⟩ ∧ t.sched.currentSysTick = 0 ∧ t.sched.running = none ∧
    t.sched.heap = [⟨s.sched.nextHandle, .cpu, .cpuStep, 100, 1, 1, s.sched.nextSeq⟩] ∧
    (s.params.gpior.kind = .gpior → ∀ j : Fin 16, t.gpior[j] = 0) ∧ t.flash = s.flash ∧ t.sram = s.sram ∧ t.log = s.log

/-- The state after reset meets every invariant below, holds R502's values, and is `reset()` of the constructed device. -/
def Obligations.ResetInvariant : Prop :=
  State.reset.inv = true ∧ State.reset.pc = 0 ∧ State.reset.sp = 0x3FFF ∧ State.reset.sreg = 0 ∧
  (∀ j, State.reset.reg j = 0) ∧ (construct configC0).map hostReset = some (.ok State.reset)

/-! ## Invariants of every step -/

/-- Both memories stay canonical, and SRAM lists addresses of internal SRAM only. -/
def Obligations.StepKeepsMemoryForm : Prop :=
  ∀ s t : State, s.memWf = true → step s = .next t → t.memWf = true

/-- Every extension register stays within its mask, the CLK registers keep their zero bits and a legal prescaler, and the CCP
counters stay at most 4. -/
def Obligations.StepKeepsRegisterForms : Prop :=
  ∀ s t : State, s.rampsLegal = true → s.clk.wf = true → s.ccpWf = true → step s = .next t →
    t.rampsLegal = true ∧ t.clk.wf = true ∧ t.ccpWf = true

/-- The pending sets stay disjoint sets of vectors (the invariant of R420). -/
def Obligations.StepKeepsPendingSets : Prop :=
  ∀ s t : State, s.pmic.wf = true → step s = .next t → t.pmic.wf = true

/-- Between steps no callback runs, every event is due later at its domain's present scale with its own number, and the CPU event
is there; and every step moves time forward (R461 to R463, R468). Reset establishes this, whatever the reset hooks schedule, and
no call of the host between steps (R506, R523) breaks it, so the heap is never empty after a reset. -/
def Obligations.StepKeepsScheduler : Prop :=
  ∀ s t : State,
    (s.sched.wf s.clk.psctrl = true → step s = .next t →
      t.sched.wf t.clk.psctrl = true ∧ s.sched.currentSysTick < t.sched.currentSysTick) ∧
    (s.sched.running = none → hostReset s = .ok t → t.sched.wf t.clk.psctrl = true) ∧
    (s.sched.wf s.clk.psctrl = true →
      ((∃ h, hostUnschedule h s = .ok t) ∨ (∃ d tag n pri h, hostSchedule d tag n pri s = .ok (h, t)) ∨
        (∃ k a v, hostGetIo k a s = some (.ok (v, t))) ∨ (∃ k a v, hostSetIo k a v s = some (.ok t)) ∨
        (∃ k iv, hostExecuteIv k iv s = some (.ok t)) ∨ (∃ iv level, t = hostSetIvLevel iv level s) ∨
        (∃ v, t = (setPcHost v s).1) ∨ (∃ image, t = loadFlashImage image s)) → t.sched.wf t.clk.psctrl = true)

/-- No step changes flash or the parameters, records a fault it goes on from, or makes a device unusable (R7, R16, R105). -/
def Obligations.StepKeepsProgramAndDevice : Prop :=
  ∀ s t : State, step s = .next t →
    t.flash = s.flash ∧ t.params = s.params ∧ s.fault = none ∧ t.fault = none ∧ s.usable = true ∧ t.usable = true

/-! ## Rules about every instruction -/

/-- SREG is written by the instructions of R42's table and by stores only (R41, R42). -/
def Obligations.SregWritersOnly : Prop :=
  ∀ (i : Instr) (s t : State), s.params.valid = true → writesFlags i = false → storesData i = false →
    exec i s = .next t → t.sreg = s.sreg

/-- Only RETI clears an in-service bit, no instruction sets one, and only BREAK touches `breaked` (R394, R422, R434). -/
def Obligations.OnlyRetiAndBreak : Prop :=
  ∀ (i : Instr) (s t : State), exec i s = .next t →
    t.pmic.status = (if i = .reti then (pmicRetiClear s).pmic.status else s.pmic.status) ∧
    t.breaked = (if i = .brk then true else s.breaked)
end

