-- ==== Sys2Proof/Laws/State.lean ====
section
/-! SUPPORT. What each named update of the state does to each field: one lemma per field per update, so that no proof unfolds
a record update. -/

namespace Sys2Proof.Machine

open Sys2Proof

variable (s : State)

/-! ## record -/

section
variable (r : LogRecord)

@[simp] theorem record_regs : (s.record r).regs = s.regs := rfl
@[simp] theorem record_pc : (s.record r).pc = s.pc := rfl
@[simp] theorem record_sp : (s.record r).sp = s.sp := rfl
@[simp] theorem record_sreg : (s.record r).sreg = s.sreg := rfl
@[simp] theorem record_rampd : (s.record r).rampd = s.rampd := rfl
@[simp] theorem record_rampx : (s.record r).rampx = s.rampx := rfl
@[simp] theorem record_rampy : (s.record r).rampy = s.rampy := rfl
@[simp] theorem record_rampz : (s.record r).rampz = s.rampz := rfl
@[simp] theorem record_eind : (s.record r).eind = s.eind := rfl
@[simp] theorem record_ccpReg : (s.record r).ccpReg = s.ccpReg := rfl
@[simp] theorem record_ccpIoreg : (s.record r).ccpIoreg = s.ccpIoreg := rfl
@[simp] theorem record_ccpSpm : (s.record r).ccpSpm = s.ccpSpm := rfl
@[simp] theorem record_instructionCycles : (s.record r).instructionCycles = s.instructionCycles := rfl
@[simp] theorem record_interruptWait : (s.record r).interruptWait = s.interruptWait := rfl
@[simp] theorem record_breaked : (s.record r).breaked = s.breaked := rfl
@[simp] theorem record_flash : (s.record r).flash = s.flash := rfl
@[simp] theorem record_sram : (s.record r).sram = s.sram := rfl
@[simp] theorem record_pmic : (s.record r).pmic = s.pmic := rfl
@[simp] theorem record_clk : (s.record r).clk = s.clk := rfl
@[simp] theorem record_sched : (s.record r).sched = s.sched := rfl
@[simp] theorem record_gpior : (s.record r).gpior = s.gpior := rfl
@[simp] theorem record_ext : (s.record r).ext = s.ext := rfl
@[simp] theorem record_log : (s.record r).log = r :: s.log := rfl
@[simp] theorem record_fault : (s.record r).fault = s.fault := rfl
@[simp] theorem record_usable : (s.record r).usable = s.usable := rfl
@[simp] theorem record_params : (s.record r).params = s.params := rfl
@[simp] theorem record_draws : (s.record r).draws = s.draws := rfl

end

/-! ## setReg -/

section
variable (r : Reg) (v : Byte)

@[simp] theorem setReg_regs : (s.setReg r v).regs = s.regs.set r v := rfl
@[simp] theorem setReg_pc : (s.setReg r v).pc = s.pc := rfl
@[simp] theorem setReg_sp : (s.setReg r v).sp = s.sp := rfl
@[simp] theorem setReg_sreg : (s.setReg r v).sreg = s.sreg := rfl
@[simp] theorem setReg_rampd : (s.setReg r v).rampd = s.rampd := rfl
@[simp] theorem setReg_rampx : (s.setReg r v).rampx = s.rampx := rfl
@[simp] theorem setReg_rampy : (s.setReg r v).rampy = s.rampy := rfl
@[simp] theorem setReg_rampz : (s.setReg r v).rampz = s.rampz := rfl
@[simp] theorem setReg_eind : (s.setReg r v).eind = s.eind := rfl
@[simp] theorem setReg_ccpReg : (s.setReg r v).ccpReg = s.ccpReg := rfl
@[simp] theorem setReg_ccpIoreg : (s.setReg r v).ccpIoreg = s.ccpIoreg := rfl
@[simp] theorem setReg_ccpSpm : (s.setReg r v).ccpSpm = s.ccpSpm := rfl
@[simp] theorem setReg_instructionCycles : (s.setReg r v).instructionCycles = s.instructionCycles := rfl
@[simp] theorem setReg_interruptWait : (s.setReg r v).interruptWait = s.interruptWait := rfl
@[simp] theorem setReg_breaked : (s.setReg r v).breaked = s.breaked := rfl
@[simp] theorem setReg_flash : (s.setReg r v).flash = s.flash := rfl
@[simp] theorem setReg_sram : (s.setReg r v).sram = s.sram := rfl
@[simp] theorem setReg_pmic : (s.setReg r v).pmic = s.pmic := rfl
@[simp] theorem setReg_clk : (s.setReg r v).clk = s.clk := rfl
@[simp] theorem setReg_sched : (s.setReg r v).sched = s.sched := rfl
@[simp] theorem setReg_gpior : (s.setReg r v).gpior = s.gpior := rfl
@[simp] theorem setReg_ext : (s.setReg r v).ext = s.ext := rfl
@[simp] theorem setReg_log : (s.setReg r v).log = s.log := rfl
@[simp] theorem setReg_fault : (s.setReg r v).fault = s.fault := rfl
@[simp] theorem setReg_usable : (s.setReg r v).usable = s.usable := rfl
@[simp] theorem setReg_params : (s.setReg r v).params = s.params := rfl
@[simp] theorem setReg_draws : (s.setReg r v).draws = s.draws := rfl

end

/-! ## setSreg -/

section
variable (v : Byte)

@[simp] theorem setSreg_regs : (s.setSreg v).regs = s.regs := rfl
@[simp] theorem setSreg_pc : (s.setSreg v).pc = s.pc := rfl
@[simp] theorem setSreg_sp : (s.setSreg v).sp = s.sp := rfl
@[simp] theorem setSreg_sreg : (s.setSreg v).sreg = v := rfl
@[simp] theorem setSreg_rampd : (s.setSreg v).rampd = s.rampd := rfl
@[simp] theorem setSreg_rampx : (s.setSreg v).rampx = s.rampx := rfl
@[simp] theorem setSreg_rampy : (s.setSreg v).rampy = s.rampy := rfl
@[simp] theorem setSreg_rampz : (s.setSreg v).rampz = s.rampz := rfl
@[simp] theorem setSreg_eind : (s.setSreg v).eind = s.eind := rfl
@[simp] theorem setSreg_ccpReg : (s.setSreg v).ccpReg = s.ccpReg := rfl
@[simp] theorem setSreg_ccpIoreg : (s.setSreg v).ccpIoreg = s.ccpIoreg := rfl
@[simp] theorem setSreg_ccpSpm : (s.setSreg v).ccpSpm = s.ccpSpm := rfl
@[simp] theorem setSreg_instructionCycles : (s.setSreg v).instructionCycles = s.instructionCycles := rfl
@[simp] theorem setSreg_interruptWait : (s.setSreg v).interruptWait = s.interruptWait := rfl
@[simp] theorem setSreg_breaked : (s.setSreg v).breaked = s.breaked := rfl
@[simp] theorem setSreg_flash : (s.setSreg v).flash = s.flash := rfl
@[simp] theorem setSreg_sram : (s.setSreg v).sram = s.sram := rfl
@[simp] theorem setSreg_pmic : (s.setSreg v).pmic = s.pmic := rfl
@[simp] theorem setSreg_clk : (s.setSreg v).clk = s.clk := rfl
@[simp] theorem setSreg_sched : (s.setSreg v).sched = s.sched := rfl
@[simp] theorem setSreg_gpior : (s.setSreg v).gpior = s.gpior := rfl
@[simp] theorem setSreg_ext : (s.setSreg v).ext = s.ext := rfl
@[simp] theorem setSreg_log : (s.setSreg v).log = s.log := rfl
@[simp] theorem setSreg_fault : (s.setSreg v).fault = s.fault := rfl
@[simp] theorem setSreg_usable : (s.setSreg v).usable = s.usable := rfl
@[simp] theorem setSreg_params : (s.setSreg v).params = s.params := rfl
@[simp] theorem setSreg_draws : (s.setSreg v).draws = s.draws := rfl

end

/-! ## setPc -/

section
variable (v : Int)

@[simp] theorem setPc_regs : (s.setPc v).regs = s.regs := rfl
@[simp] theorem setPc_pc : (s.setPc v).pc = v := rfl
@[simp] theorem setPc_sp : (s.setPc v).sp = s.sp := rfl
@[simp] theorem setPc_sreg : (s.setPc v).sreg = s.sreg := rfl
@[simp] theorem setPc_rampd : (s.setPc v).rampd = s.rampd := rfl
@[simp] theorem setPc_rampx : (s.setPc v).rampx = s.rampx := rfl
@[simp] theorem setPc_rampy : (s.setPc v).rampy = s.rampy := rfl
@[simp] theorem setPc_rampz : (s.setPc v).rampz = s.rampz := rfl
@[simp] theorem setPc_eind : (s.setPc v).eind = s.eind := rfl
@[simp] theorem setPc_ccpReg : (s.setPc v).ccpReg = s.ccpReg := rfl
@[simp] theorem setPc_ccpIoreg : (s.setPc v).ccpIoreg = s.ccpIoreg := rfl
@[simp] theorem setPc_ccpSpm : (s.setPc v).ccpSpm = s.ccpSpm := rfl
@[simp] theorem setPc_instructionCycles : (s.setPc v).instructionCycles = s.instructionCycles := rfl
@[simp] theorem setPc_interruptWait : (s.setPc v).interruptWait = s.interruptWait := rfl
@[simp] theorem setPc_breaked : (s.setPc v).breaked = s.breaked := rfl
@[simp] theorem setPc_flash : (s.setPc v).flash = s.flash := rfl
@[simp] theorem setPc_sram : (s.setPc v).sram = s.sram := rfl
@[simp] theorem setPc_pmic : (s.setPc v).pmic = s.pmic := rfl
@[simp] theorem setPc_clk : (s.setPc v).clk = s.clk := rfl
@[simp] theorem setPc_sched : (s.setPc v).sched = s.sched := rfl
@[simp] theorem setPc_gpior : (s.setPc v).gpior = s.gpior := rfl
@[simp] theorem setPc_ext : (s.setPc v).ext = s.ext := rfl
@[simp] theorem setPc_log : (s.setPc v).log = s.log := rfl
@[simp] theorem setPc_fault : (s.setPc v).fault = s.fault := rfl
@[simp] theorem setPc_usable : (s.setPc v).usable = s.usable := rfl
@[simp] theorem setPc_params : (s.setPc v).params = s.params := rfl
@[simp] theorem setPc_draws : (s.setPc v).draws = s.draws := rfl

end

/-! ## setSp -/

section
variable (v : Word)

@[simp] theorem setSp_regs : (s.setSp v).regs = s.regs := rfl
@[simp] theorem setSp_pc : (s.setSp v).pc = s.pc := rfl
@[simp] theorem setSp_sp : (s.setSp v).sp = v := rfl
@[simp] theorem setSp_sreg : (s.setSp v).sreg = s.sreg := rfl
@[simp] theorem setSp_rampd : (s.setSp v).rampd = s.rampd := rfl
@[simp] theorem setSp_rampx : (s.setSp v).rampx = s.rampx := rfl
@[simp] theorem setSp_rampy : (s.setSp v).rampy = s.rampy := rfl
@[simp] theorem setSp_rampz : (s.setSp v).rampz = s.rampz := rfl
@[simp] theorem setSp_eind : (s.setSp v).eind = s.eind := rfl
@[simp] theorem setSp_ccpReg : (s.setSp v).ccpReg = s.ccpReg := rfl
@[simp] theorem setSp_ccpIoreg : (s.setSp v).ccpIoreg = s.ccpIoreg := rfl
@[simp] theorem setSp_ccpSpm : (s.setSp v).ccpSpm = s.ccpSpm := rfl
@[simp] theorem setSp_instructionCycles : (s.setSp v).instructionCycles = s.instructionCycles := rfl
@[simp] theorem setSp_interruptWait : (s.setSp v).interruptWait = s.interruptWait := rfl
@[simp] theorem setSp_breaked : (s.setSp v).breaked = s.breaked := rfl
@[simp] theorem setSp_flash : (s.setSp v).flash = s.flash := rfl
@[simp] theorem setSp_sram : (s.setSp v).sram = s.sram := rfl
@[simp] theorem setSp_pmic : (s.setSp v).pmic = s.pmic := rfl
@[simp] theorem setSp_clk : (s.setSp v).clk = s.clk := rfl
@[simp] theorem setSp_sched : (s.setSp v).sched = s.sched := rfl
@[simp] theorem setSp_gpior : (s.setSp v).gpior = s.gpior := rfl
@[simp] theorem setSp_ext : (s.setSp v).ext = s.ext := rfl
@[simp] theorem setSp_log : (s.setSp v).log = s.log := rfl
@[simp] theorem setSp_fault : (s.setSp v).fault = s.fault := rfl
@[simp] theorem setSp_usable : (s.setSp v).usable = s.usable := rfl
@[simp] theorem setSp_params : (s.setSp v).params = s.params := rfl
@[simp] theorem setSp_draws : (s.setSp v).draws = s.draws := rfl

end

/-! ## setRampd -/

section
variable (v : Byte)

@[simp] theorem setRampd_regs : (s.setRampd v).regs = s.regs := rfl
@[simp] theorem setRampd_pc : (s.setRampd v).pc = s.pc := rfl
@[simp] theorem setRampd_sp : (s.setRampd v).sp = s.sp := rfl
@[simp] theorem setRampd_sreg : (s.setRampd v).sreg = s.sreg := rfl
@[simp] theorem setRampd_rampd : (s.setRampd v).rampd = v &&& s.params.rampdMask := rfl
@[simp] theorem setRampd_rampx : (s.setRampd v).rampx = s.rampx := rfl
@[simp] theorem setRampd_rampy : (s.setRampd v).rampy = s.rampy := rfl
@[simp] theorem setRampd_rampz : (s.setRampd v).rampz = s.rampz := rfl
@[simp] theorem setRampd_eind : (s.setRampd v).eind = s.eind := rfl
@[simp] theorem setRampd_ccpReg : (s.setRampd v).ccpReg = s.ccpReg := rfl
@[simp] theorem setRampd_ccpIoreg : (s.setRampd v).ccpIoreg = s.ccpIoreg := rfl
@[simp] theorem setRampd_ccpSpm : (s.setRampd v).ccpSpm = s.ccpSpm := rfl
@[simp] theorem setRampd_instructionCycles : (s.setRampd v).instructionCycles = s.instructionCycles := rfl
@[simp] theorem setRampd_interruptWait : (s.setRampd v).interruptWait = s.interruptWait := rfl
@[simp] theorem setRampd_breaked : (s.setRampd v).breaked = s.breaked := rfl
@[simp] theorem setRampd_flash : (s.setRampd v).flash = s.flash := rfl
@[simp] theorem setRampd_sram : (s.setRampd v).sram = s.sram := rfl
@[simp] theorem setRampd_pmic : (s.setRampd v).pmic = s.pmic := rfl
@[simp] theorem setRampd_clk : (s.setRampd v).clk = s.clk := rfl
@[simp] theorem setRampd_sched : (s.setRampd v).sched = s.sched := rfl
@[simp] theorem setRampd_gpior : (s.setRampd v).gpior = s.gpior := rfl
@[simp] theorem setRampd_ext : (s.setRampd v).ext = s.ext := rfl
@[simp] theorem setRampd_log : (s.setRampd v).log = s.log := rfl
@[simp] theorem setRampd_fault : (s.setRampd v).fault = s.fault := rfl
@[simp] theorem setRampd_usable : (s.setRampd v).usable = s.usable := rfl
@[simp] theorem setRampd_params : (s.setRampd v).params = s.params := rfl
@[simp] theorem setRampd_draws : (s.setRampd v).draws = s.draws := rfl

end

/-! ## setRampx -/

section
variable (v : Byte)

@[simp] theorem setRampx_regs : (s.setRampx v).regs = s.regs := rfl
@[simp] theorem setRampx_pc : (s.setRampx v).pc = s.pc := rfl
@[simp] theorem setRampx_sp : (s.setRampx v).sp = s.sp := rfl
@[simp] theorem setRampx_sreg : (s.setRampx v).sreg = s.sreg := rfl
@[simp] theorem setRampx_rampd : (s.setRampx v).rampd = s.rampd := rfl
@[simp] theorem setRampx_rampx : (s.setRampx v).rampx = v &&& s.params.rampxMask := rfl
@[simp] theorem setRampx_rampy : (s.setRampx v).rampy = s.rampy := rfl
@[simp] theorem setRampx_rampz : (s.setRampx v).rampz = s.rampz := rfl
@[simp] theorem setRampx_eind : (s.setRampx v).eind = s.eind := rfl
@[simp] theorem setRampx_ccpReg : (s.setRampx v).ccpReg = s.ccpReg := rfl
@[simp] theorem setRampx_ccpIoreg : (s.setRampx v).ccpIoreg = s.ccpIoreg := rfl
@[simp] theorem setRampx_ccpSpm : (s.setRampx v).ccpSpm = s.ccpSpm := rfl
@[simp] theorem setRampx_instructionCycles : (s.setRampx v).instructionCycles = s.instructionCycles := rfl
@[simp] theorem setRampx_interruptWait : (s.setRampx v).interruptWait = s.interruptWait := rfl
@[simp] theorem setRampx_breaked : (s.setRampx v).breaked = s.breaked := rfl
@[simp] theorem setRampx_flash : (s.setRampx v).flash = s.flash := rfl
@[simp] theorem setRampx_sram : (s.setRampx v).sram = s.sram := rfl
@[simp] theorem setRampx_pmic : (s.setRampx v).pmic = s.pmic := rfl
@[simp] theorem setRampx_clk : (s.setRampx v).clk = s.clk := rfl
@[simp] theorem setRampx_sched : (s.setRampx v).sched = s.sched := rfl
@[simp] theorem setRampx_gpior : (s.setRampx v).gpior = s.gpior := rfl
@[simp] theorem setRampx_ext : (s.setRampx v).ext = s.ext := rfl
@[simp] theorem setRampx_log : (s.setRampx v).log = s.log := rfl
@[simp] theorem setRampx_fault : (s.setRampx v).fault = s.fault := rfl
@[simp] theorem setRampx_usable : (s.setRampx v).usable = s.usable := rfl
@[simp] theorem setRampx_params : (s.setRampx v).params = s.params := rfl
@[simp] theorem setRampx_draws : (s.setRampx v).draws = s.draws := rfl

end

/-! ## setRampy -/

section
variable (v : Byte)

@[simp] theorem setRampy_regs : (s.setRampy v).regs = s.regs := rfl
@[simp] theorem setRampy_pc : (s.setRampy v).pc = s.pc := rfl
@[simp] theorem setRampy_sp : (s.setRampy v).sp = s.sp := rfl
@[simp] theorem setRampy_sreg : (s.setRampy v).sreg = s.sreg := rfl
@[simp] theorem setRampy_rampd : (s.setRampy v).rampd = s.rampd := rfl
@[simp] theorem setRampy_rampx : (s.setRampy v).rampx = s.rampx := rfl
@[simp] theorem setRampy_rampy : (s.setRampy v).rampy = v &&& s.params.rampyMask := rfl
@[simp] theorem setRampy_rampz : (s.setRampy v).rampz = s.rampz := rfl
@[simp] theorem setRampy_eind : (s.setRampy v).eind = s.eind := rfl
@[simp] theorem setRampy_ccpReg : (s.setRampy v).ccpReg = s.ccpReg := rfl
@[simp] theorem setRampy_ccpIoreg : (s.setRampy v).ccpIoreg = s.ccpIoreg := rfl
@[simp] theorem setRampy_ccpSpm : (s.setRampy v).ccpSpm = s.ccpSpm := rfl
@[simp] theorem setRampy_instructionCycles : (s.setRampy v).instructionCycles = s.instructionCycles := rfl
@[simp] theorem setRampy_interruptWait : (s.setRampy v).interruptWait = s.interruptWait := rfl
@[simp] theorem setRampy_breaked : (s.setRampy v).breaked = s.breaked := rfl
@[simp] theorem setRampy_flash : (s.setRampy v).flash = s.flash := rfl
@[simp] theorem setRampy_sram : (s.setRampy v).sram = s.sram := rfl
@[simp] theorem setRampy_pmic : (s.setRampy v).pmic = s.pmic := rfl
@[simp] theorem setRampy_clk : (s.setRampy v).clk = s.clk := rfl
@[simp] theorem setRampy_sched : (s.setRampy v).sched = s.sched := rfl
@[simp] theorem setRampy_gpior : (s.setRampy v).gpior = s.gpior := rfl
@[simp] theorem setRampy_ext : (s.setRampy v).ext = s.ext := rfl
@[simp] theorem setRampy_log : (s.setRampy v).log = s.log := rfl
@[simp] theorem setRampy_fault : (s.setRampy v).fault = s.fault := rfl
@[simp] theorem setRampy_usable : (s.setRampy v).usable = s.usable := rfl
@[simp] theorem setRampy_params : (s.setRampy v).params = s.params := rfl
@[simp] theorem setRampy_draws : (s.setRampy v).draws = s.draws := rfl

end

/-! ## setRampz -/

section
variable (v : Byte)

@[simp] theorem setRampz_regs : (s.setRampz v).regs = s.regs := rfl
@[simp] theorem setRampz_pc : (s.setRampz v).pc = s.pc := rfl
@[simp] theorem setRampz_sp : (s.setRampz v).sp = s.sp := rfl
@[simp] theorem setRampz_sreg : (s.setRampz v).sreg = s.sreg := rfl
@[simp] theorem setRampz_rampd : (s.setRampz v).rampd = s.rampd := rfl
@[simp] theorem setRampz_rampx : (s.setRampz v).rampx = s.rampx := rfl
@[simp] theorem setRampz_rampy : (s.setRampz v).rampy = s.rampy := rfl
@[simp] theorem setRampz_rampz : (s.setRampz v).rampz = v &&& s.params.rampzMask := rfl
@[simp] theorem setRampz_eind : (s.setRampz v).eind = s.eind := rfl
@[simp] theorem setRampz_ccpReg : (s.setRampz v).ccpReg = s.ccpReg := rfl
@[simp] theorem setRampz_ccpIoreg : (s.setRampz v).ccpIoreg = s.ccpIoreg := rfl
@[simp] theorem setRampz_ccpSpm : (s.setRampz v).ccpSpm = s.ccpSpm := rfl
@[simp] theorem setRampz_instructionCycles : (s.setRampz v).instructionCycles = s.instructionCycles := rfl
@[simp] theorem setRampz_interruptWait : (s.setRampz v).interruptWait = s.interruptWait := rfl
@[simp] theorem setRampz_breaked : (s.setRampz v).breaked = s.breaked := rfl
@[simp] theorem setRampz_flash : (s.setRampz v).flash = s.flash := rfl
@[simp] theorem setRampz_sram : (s.setRampz v).sram = s.sram := rfl
@[simp] theorem setRampz_pmic : (s.setRampz v).pmic = s.pmic := rfl
@[simp] theorem setRampz_clk : (s.setRampz v).clk = s.clk := rfl
@[simp] theorem setRampz_sched : (s.setRampz v).sched = s.sched := rfl
@[simp] theorem setRampz_gpior : (s.setRampz v).gpior = s.gpior := rfl
@[simp] theorem setRampz_ext : (s.setRampz v).ext = s.ext := rfl
@[simp] theorem setRampz_log : (s.setRampz v).log = s.log := rfl
@[simp] theorem setRampz_fault : (s.setRampz v).fault = s.fault := rfl
@[simp] theorem setRampz_usable : (s.setRampz v).usable = s.usable := rfl
@[simp] theorem setRampz_params : (s.setRampz v).params = s.params := rfl
@[simp] theorem setRampz_draws : (s.setRampz v).draws = s.draws := rfl

end

/-! ## setEind -/

section
variable (v : Byte)

@[simp] theorem setEind_regs : (s.setEind v).regs = s.regs := rfl
@[simp] theorem setEind_pc : (s.setEind v).pc = s.pc := rfl
@[simp] theorem setEind_sp : (s.setEind v).sp = s.sp := rfl
@[simp] theorem setEind_sreg : (s.setEind v).sreg = s.sreg := rfl
@[simp] theorem setEind_rampd : (s.setEind v).rampd = s.rampd := rfl
@[simp] theorem setEind_rampx : (s.setEind v).rampx = s.rampx := rfl
@[simp] theorem setEind_rampy : (s.setEind v).rampy = s.rampy := rfl
@[simp] theorem setEind_rampz : (s.setEind v).rampz = s.rampz := rfl
@[simp] theorem setEind_eind : (s.setEind v).eind = v &&& s.params.eindMask := rfl
@[simp] theorem setEind_ccpReg : (s.setEind v).ccpReg = s.ccpReg := rfl
@[simp] theorem setEind_ccpIoreg : (s.setEind v).ccpIoreg = s.ccpIoreg := rfl
@[simp] theorem setEind_ccpSpm : (s.setEind v).ccpSpm = s.ccpSpm := rfl
@[simp] theorem setEind_instructionCycles : (s.setEind v).instructionCycles = s.instructionCycles := rfl
@[simp] theorem setEind_interruptWait : (s.setEind v).interruptWait = s.interruptWait := rfl
@[simp] theorem setEind_breaked : (s.setEind v).breaked = s.breaked := rfl
@[simp] theorem setEind_flash : (s.setEind v).flash = s.flash := rfl
@[simp] theorem setEind_sram : (s.setEind v).sram = s.sram := rfl
@[simp] theorem setEind_pmic : (s.setEind v).pmic = s.pmic := rfl
@[simp] theorem setEind_clk : (s.setEind v).clk = s.clk := rfl
@[simp] theorem setEind_sched : (s.setEind v).sched = s.sched := rfl
@[simp] theorem setEind_gpior : (s.setEind v).gpior = s.gpior := rfl
@[simp] theorem setEind_ext : (s.setEind v).ext = s.ext := rfl
@[simp] theorem setEind_log : (s.setEind v).log = s.log := rfl
@[simp] theorem setEind_fault : (s.setEind v).fault = s.fault := rfl
@[simp] theorem setEind_usable : (s.setEind v).usable = s.usable := rfl
@[simp] theorem setEind_params : (s.setEind v).params = s.params := rfl
@[simp] theorem setEind_draws : (s.setEind v).draws = s.draws := rfl

end

/-! ## charge -/

section
variable (f : Form) (n : Nat)

@[simp] theorem charge_regs : (s.charge f n).regs = s.regs := rfl
@[simp] theorem charge_pc : (s.charge f n).pc = s.pc := rfl
@[simp] theorem charge_sp : (s.charge f n).sp = s.sp := rfl
@[simp] theorem charge_sreg : (s.charge f n).sreg = s.sreg := rfl
@[simp] theorem charge_rampd : (s.charge f n).rampd = s.rampd := rfl
@[simp] theorem charge_rampx : (s.charge f n).rampx = s.rampx := rfl
@[simp] theorem charge_rampy : (s.charge f n).rampy = s.rampy := rfl
@[simp] theorem charge_rampz : (s.charge f n).rampz = s.rampz := rfl
@[simp] theorem charge_eind : (s.charge f n).eind = s.eind := rfl
@[simp] theorem charge_ccpReg : (s.charge f n).ccpReg = s.ccpReg := rfl
@[simp] theorem charge_ccpIoreg : (s.charge f n).ccpIoreg = s.ccpIoreg := rfl
@[simp] theorem charge_ccpSpm : (s.charge f n).ccpSpm = s.ccpSpm := rfl
@[simp] theorem charge_instructionCycles : (s.charge f n).instructionCycles = s.params.cyclesOf f n := rfl
@[simp] theorem charge_interruptWait : (s.charge f n).interruptWait = s.interruptWait := rfl
@[simp] theorem charge_breaked : (s.charge f n).breaked = s.breaked := rfl
@[simp] theorem charge_flash : (s.charge f n).flash = s.flash := rfl
@[simp] theorem charge_sram : (s.charge f n).sram = s.sram := rfl
@[simp] theorem charge_pmic : (s.charge f n).pmic = s.pmic := rfl
@[simp] theorem charge_clk : (s.charge f n).clk = s.clk := rfl
@[simp] theorem charge_sched : (s.charge f n).sched = s.sched := rfl
@[simp] theorem charge_gpior : (s.charge f n).gpior = s.gpior := rfl
@[simp] theorem charge_ext : (s.charge f n).ext = s.ext := rfl
@[simp] theorem charge_log : (s.charge f n).log = s.log := rfl
@[simp] theorem charge_fault : (s.charge f n).fault = s.fault := rfl
@[simp] theorem charge_usable : (s.charge f n).usable = s.usable := rfl
@[simp] theorem charge_params : (s.charge f n).params = s.params := rfl
@[simp] theorem charge_draws : (s.charge f n).draws = s.draws := rfl

end

/-! ## retire -/

section
variable (w : Int) (f : Form) (n : Nat)

@[simp] theorem retire_regs : (s.retire w f n).regs = s.regs := rfl
@[simp] theorem retire_pc : (s.retire w f n).pc = s.pc + w := rfl
@[simp] theorem retire_sp : (s.retire w f n).sp = s.sp := rfl
@[simp] theorem retire_sreg : (s.retire w f n).sreg = s.sreg := rfl
@[simp] theorem retire_rampd : (s.retire w f n).rampd = s.rampd := rfl
@[simp] theorem retire_rampx : (s.retire w f n).rampx = s.rampx := rfl
@[simp] theorem retire_rampy : (s.retire w f n).rampy = s.rampy := rfl
@[simp] theorem retire_rampz : (s.retire w f n).rampz = s.rampz := rfl
@[simp] theorem retire_eind : (s.retire w f n).eind = s.eind := rfl
@[simp] theorem retire_ccpReg : (s.retire w f n).ccpReg = s.ccpReg := rfl
@[simp] theorem retire_ccpIoreg : (s.retire w f n).ccpIoreg = s.ccpIoreg := rfl
@[simp] theorem retire_ccpSpm : (s.retire w f n).ccpSpm = s.ccpSpm := rfl
@[simp] theorem retire_instructionCycles : (s.retire w f n).instructionCycles = s.params.cyclesOf f n := rfl
@[simp] theorem retire_interruptWait : (s.retire w f n).interruptWait = s.interruptWait := rfl
@[simp] theorem retire_breaked : (s.retire w f n).breaked = s.breaked := rfl
@[simp] theorem retire_flash : (s.retire w f n).flash = s.flash := rfl
@[simp] theorem retire_sram : (s.retire w f n).sram = s.sram := rfl
@[simp] theorem retire_pmic : (s.retire w f n).pmic = s.pmic := rfl
@[simp] theorem retire_clk : (s.retire w f n).clk = s.clk := rfl
@[simp] theorem retire_sched : (s.retire w f n).sched = s.sched := rfl
@[simp] theorem retire_gpior : (s.retire w f n).gpior = s.gpior := rfl
@[simp] theorem retire_ext : (s.retire w f n).ext = s.ext := rfl
@[simp] theorem retire_log : (s.retire w f n).log = s.log := rfl
@[simp] theorem retire_fault : (s.retire w f n).fault = s.fault := rfl
@[simp] theorem retire_usable : (s.retire w f n).usable = s.usable := rfl
@[simp] theorem retire_params : (s.retire w f n).params = s.params := rfl
@[simp] theorem retire_draws : (s.retire w f n).draws = s.draws := rfl

end

/-! ## jump -/

section
variable (v : Int) (f : Form) (n : Nat)

@[simp] theorem jump_regs : (s.jump v f n).regs = s.regs := rfl
@[simp] theorem jump_pc : (s.jump v f n).pc = v := rfl
@[simp] theorem jump_sp : (s.jump v f n).sp = s.sp := rfl
@[simp] theorem jump_sreg : (s.jump v f n).sreg = s.sreg := rfl
@[simp] theorem jump_rampd : (s.jump v f n).rampd = s.rampd := rfl
@[simp] theorem jump_rampx : (s.jump v f n).rampx = s.rampx := rfl
@[simp] theorem jump_rampy : (s.jump v f n).rampy = s.rampy := rfl
@[simp] theorem jump_rampz : (s.jump v f n).rampz = s.rampz := rfl
@[simp] theorem jump_eind : (s.jump v f n).eind = s.eind := rfl
@[simp] theorem jump_ccpReg : (s.jump v f n).ccpReg = s.ccpReg := rfl
@[simp] theorem jump_ccpIoreg : (s.jump v f n).ccpIoreg = s.ccpIoreg := rfl
@[simp] theorem jump_ccpSpm : (s.jump v f n).ccpSpm = s.ccpSpm := rfl
@[simp] theorem jump_instructionCycles : (s.jump v f n).instructionCycles = s.params.cyclesOf f n := rfl
@[simp] theorem jump_interruptWait : (s.jump v f n).interruptWait = s.interruptWait := rfl
@[simp] theorem jump_breaked : (s.jump v f n).breaked = s.breaked := rfl
@[simp] theorem jump_flash : (s.jump v f n).flash = s.flash := rfl
@[simp] theorem jump_sram : (s.jump v f n).sram = s.sram := rfl
@[simp] theorem jump_pmic : (s.jump v f n).pmic = s.pmic := rfl
@[simp] theorem jump_clk : (s.jump v f n).clk = s.clk := rfl
@[simp] theorem jump_sched : (s.jump v f n).sched = s.sched := rfl
@[simp] theorem jump_gpior : (s.jump v f n).gpior = s.gpior := rfl
@[simp] theorem jump_ext : (s.jump v f n).ext = s.ext := rfl
@[simp] theorem jump_log : (s.jump v f n).log = s.log := rfl
@[simp] theorem jump_fault : (s.jump v f n).fault = s.fault := rfl
@[simp] theorem jump_usable : (s.jump v f n).usable = s.usable := rfl
@[simp] theorem jump_params : (s.jump v f n).params = s.params := rfl
@[simp] theorem jump_draws : (s.jump v f n).draws = s.draws := rfl

end

/-! ## setSram -/

section
variable (a : Nat) (v : Byte)

@[simp] theorem setSram_regs : (s.setSram a v).regs = s.regs := rfl
@[simp] theorem setSram_pc : (s.setSram a v).pc = s.pc := rfl
@[simp] theorem setSram_sp : (s.setSram a v).sp = s.sp := rfl
@[simp] theorem setSram_sreg : (s.setSram a v).sreg = s.sreg := rfl
@[simp] theorem setSram_rampd : (s.setSram a v).rampd = s.rampd := rfl
@[simp] theorem setSram_rampx : (s.setSram a v).rampx = s.rampx := rfl
@[simp] theorem setSram_rampy : (s.setSram a v).rampy = s.rampy := rfl
@[simp] theorem setSram_rampz : (s.setSram a v).rampz = s.rampz := rfl
@[simp] theorem setSram_eind : (s.setSram a v).eind = s.eind := rfl
@[simp] theorem setSram_ccpReg : (s.setSram a v).ccpReg = s.ccpReg := rfl
@[simp] theorem setSram_ccpIoreg : (s.setSram a v).ccpIoreg = s.ccpIoreg := rfl
@[simp] theorem setSram_ccpSpm : (s.setSram a v).ccpSpm = s.ccpSpm := rfl
@[simp] theorem setSram_instructionCycles : (s.setSram a v).instructionCycles = s.instructionCycles := rfl
@[simp] theorem setSram_interruptWait : (s.setSram a v).interruptWait = s.interruptWait := rfl
@[simp] theorem setSram_breaked : (s.setSram a v).breaked = s.breaked := rfl
@[simp] theorem setSram_flash : (s.setSram a v).flash = s.flash := rfl
@[simp] theorem setSram_sram : (s.setSram a v).sram = memSet s.sram a v := rfl
@[simp] theorem setSram_pmic : (s.setSram a v).pmic = s.pmic := rfl
@[simp] theorem setSram_clk : (s.setSram a v).clk = s.clk := rfl
@[simp] theorem setSram_sched : (s.setSram a v).sched = s.sched := rfl
@[simp] theorem setSram_gpior : (s.setSram a v).gpior = s.gpior := rfl
@[simp] theorem setSram_ext : (s.setSram a v).ext = s.ext := rfl
@[simp] theorem setSram_log : (s.setSram a v).log = s.log := rfl
@[simp] theorem setSram_fault : (s.setSram a v).fault = s.fault := rfl
@[simp] theorem setSram_usable : (s.setSram a v).usable = s.usable := rfl
@[simp] theorem setSram_params : (s.setSram a v).params = s.params := rfl
@[simp] theorem setSram_draws : (s.setSram a v).draws = s.draws := rfl

end

/-! ## setSched -/

section
variable (c : Sched)

@[simp] theorem setSched_regs : (s.setSched c).regs = s.regs := rfl
@[simp] theorem setSched_pc : (s.setSched c).pc = s.pc := rfl
@[simp] theorem setSched_sp : (s.setSched c).sp = s.sp := rfl
@[simp] theorem setSched_sreg : (s.setSched c).sreg = s.sreg := rfl
@[simp] theorem setSched_rampd : (s.setSched c).rampd = s.rampd := rfl
@[simp] theorem setSched_rampx : (s.setSched c).rampx = s.rampx := rfl
@[simp] theorem setSched_rampy : (s.setSched c).rampy = s.rampy := rfl
@[simp] theorem setSched_rampz : (s.setSched c).rampz = s.rampz := rfl
@[simp] theorem setSched_eind : (s.setSched c).eind = s.eind := rfl
@[simp] theorem setSched_ccpReg : (s.setSched c).ccpReg = s.ccpReg := rfl
@[simp] theorem setSched_ccpIoreg : (s.setSched c).ccpIoreg = s.ccpIoreg := rfl
@[simp] theorem setSched_ccpSpm : (s.setSched c).ccpSpm = s.ccpSpm := rfl
@[simp] theorem setSched_instructionCycles : (s.setSched c).instructionCycles = s.instructionCycles := rfl
@[simp] theorem setSched_interruptWait : (s.setSched c).interruptWait = s.interruptWait := rfl
@[simp] theorem setSched_breaked : (s.setSched c).breaked = s.breaked := rfl
@[simp] theorem setSched_flash : (s.setSched c).flash = s.flash := rfl
@[simp] theorem setSched_sram : (s.setSched c).sram = s.sram := rfl
@[simp] theorem setSched_pmic : (s.setSched c).pmic = s.pmic := rfl
@[simp] theorem setSched_clk : (s.setSched c).clk = s.clk := rfl
@[simp] theorem setSched_sched : (s.setSched c).sched = c := rfl
@[simp] theorem setSched_gpior : (s.setSched c).gpior = s.gpior := rfl
@[simp] theorem setSched_ext : (s.setSched c).ext = s.ext := rfl
@[simp] theorem setSched_log : (s.setSched c).log = s.log := rfl
@[simp] theorem setSched_fault : (s.setSched c).fault = s.fault := rfl
@[simp] theorem setSched_usable : (s.setSched c).usable = s.usable := rfl
@[simp] theorem setSched_params : (s.setSched c).params = s.params := rfl
@[simp] theorem setSched_draws : (s.setSched c).draws = s.draws := rfl

end

/-! ## setPmic -/

section
variable (p : Pmic)

@[simp] theorem setPmic_regs : (s.setPmic p).regs = s.regs := rfl
@[simp] theorem setPmic_pc : (s.setPmic p).pc = s.pc := rfl
@[simp] theorem setPmic_sp : (s.setPmic p).sp = s.sp := rfl
@[simp] theorem setPmic_sreg : (s.setPmic p).sreg = s.sreg := rfl
@[simp] theorem setPmic_rampd : (s.setPmic p).rampd = s.rampd := rfl
@[simp] theorem setPmic_rampx : (s.setPmic p).rampx = s.rampx := rfl
@[simp] theorem setPmic_rampy : (s.setPmic p).rampy = s.rampy := rfl
@[simp] theorem setPmic_rampz : (s.setPmic p).rampz = s.rampz := rfl
@[simp] theorem setPmic_eind : (s.setPmic p).eind = s.eind := rfl
@[simp] theorem setPmic_ccpReg : (s.setPmic p).ccpReg = s.ccpReg := rfl
@[simp] theorem setPmic_ccpIoreg : (s.setPmic p).ccpIoreg = s.ccpIoreg := rfl
@[simp] theorem setPmic_ccpSpm : (s.setPmic p).ccpSpm = s.ccpSpm := rfl
@[simp] theorem setPmic_instructionCycles : (s.setPmic p).instructionCycles = s.instructionCycles := rfl
@[simp] theorem setPmic_interruptWait : (s.setPmic p).interruptWait = s.interruptWait := rfl
@[simp] theorem setPmic_breaked : (s.setPmic p).breaked = s.breaked := rfl
@[simp] theorem setPmic_flash : (s.setPmic p).flash = s.flash := rfl
@[simp] theorem setPmic_sram : (s.setPmic p).sram = s.sram := rfl
@[simp] theorem setPmic_pmic : (s.setPmic p).pmic = p := rfl
@[simp] theorem setPmic_clk : (s.setPmic p).clk = s.clk := rfl
@[simp] theorem setPmic_sched : (s.setPmic p).sched = s.sched := rfl
@[simp] theorem setPmic_gpior : (s.setPmic p).gpior = s.gpior := rfl
@[simp] theorem setPmic_ext : (s.setPmic p).ext = s.ext := rfl
@[simp] theorem setPmic_log : (s.setPmic p).log = s.log := rfl
@[simp] theorem setPmic_fault : (s.setPmic p).fault = s.fault := rfl
@[simp] theorem setPmic_usable : (s.setPmic p).usable = s.usable := rfl
@[simp] theorem setPmic_params : (s.setPmic p).params = s.params := rfl
@[simp] theorem setPmic_draws : (s.setPmic p).draws = s.draws := rfl

end

/-! ## setClk -/

section
variable (c : Clk)

@[simp] theorem setClk_regs : (s.setClk c).regs = s.regs := rfl
@[simp] theorem setClk_pc : (s.setClk c).pc = s.pc := rfl
@[simp] theorem setClk_sp : (s.setClk c).sp = s.sp := rfl
@[simp] theorem setClk_sreg : (s.setClk c).sreg = s.sreg := rfl
@[simp] theorem setClk_rampd : (s.setClk c).rampd = s.rampd := rfl
@[simp] theorem setClk_rampx : (s.setClk c).rampx = s.rampx := rfl
@[simp] theorem setClk_rampy : (s.setClk c).rampy = s.rampy := rfl
@[simp] theorem setClk_rampz : (s.setClk c).rampz = s.rampz := rfl
@[simp] theorem setClk_eind : (s.setClk c).eind = s.eind := rfl
@[simp] theorem setClk_ccpReg : (s.setClk c).ccpReg = s.ccpReg := rfl
@[simp] theorem setClk_ccpIoreg : (s.setClk c).ccpIoreg = s.ccpIoreg := rfl
@[simp] theorem setClk_ccpSpm : (s.setClk c).ccpSpm = s.ccpSpm := rfl
@[simp] theorem setClk_instructionCycles : (s.setClk c).instructionCycles = s.instructionCycles := rfl
@[simp] theorem setClk_interruptWait : (s.setClk c).interruptWait = s.interruptWait := rfl
@[simp] theorem setClk_breaked : (s.setClk c).breaked = s.breaked := rfl
@[simp] theorem setClk_flash : (s.setClk c).flash = s.flash := rfl
@[simp] theorem setClk_sram : (s.setClk c).sram = s.sram := rfl
@[simp] theorem setClk_pmic : (s.setClk c).pmic = s.pmic := rfl
@[simp] theorem setClk_clk : (s.setClk c).clk = c := rfl
@[simp] theorem setClk_sched : (s.setClk c).sched = s.sched := rfl
@[simp] theorem setClk_gpior : (s.setClk c).gpior = s.gpior := rfl
@[simp] theorem setClk_ext : (s.setClk c).ext = s.ext := rfl
@[simp] theorem setClk_log : (s.setClk c).log = s.log := rfl
@[simp] theorem setClk_fault : (s.setClk c).fault = s.fault := rfl
@[simp] theorem setClk_usable : (s.setClk c).usable = s.usable := rfl
@[simp] theorem setClk_params : (s.setClk c).params = s.params := rfl
@[simp] theorem setClk_draws : (s.setClk c).draws = s.draws := rfl

end

/-! ## setExt -/

section
variable (n : Nat) (d : List Nat)

@[simp] theorem setExt_regs : (s.setExt n d).regs = s.regs := rfl
@[simp] theorem setExt_pc : (s.setExt n d).pc = s.pc := rfl
@[simp] theorem setExt_sp : (s.setExt n d).sp = s.sp := rfl
@[simp] theorem setExt_sreg : (s.setExt n d).sreg = s.sreg := rfl
@[simp] theorem setExt_rampd : (s.setExt n d).rampd = s.rampd := rfl
@[simp] theorem setExt_rampx : (s.setExt n d).rampx = s.rampx := rfl
@[simp] theorem setExt_rampy : (s.setExt n d).rampy = s.rampy := rfl
@[simp] theorem setExt_rampz : (s.setExt n d).rampz = s.rampz := rfl
@[simp] theorem setExt_eind : (s.setExt n d).eind = s.eind := rfl
@[simp] theorem setExt_ccpReg : (s.setExt n d).ccpReg = s.ccpReg := rfl
@[simp] theorem setExt_ccpIoreg : (s.setExt n d).ccpIoreg = s.ccpIoreg := rfl
@[simp] theorem setExt_ccpSpm : (s.setExt n d).ccpSpm = s.ccpSpm := rfl
@[simp] theorem setExt_instructionCycles : (s.setExt n d).instructionCycles = s.instructionCycles := rfl
@[simp] theorem setExt_interruptWait : (s.setExt n d).interruptWait = s.interruptWait := rfl
@[simp] theorem setExt_breaked : (s.setExt n d).breaked = s.breaked := rfl
@[simp] theorem setExt_flash : (s.setExt n d).flash = s.flash := rfl
@[simp] theorem setExt_sram : (s.setExt n d).sram = s.sram := rfl
@[simp] theorem setExt_pmic : (s.setExt n d).pmic = s.pmic := rfl
@[simp] theorem setExt_clk : (s.setExt n d).clk = s.clk := rfl
@[simp] theorem setExt_sched : (s.setExt n d).sched = s.sched := rfl
@[simp] theorem setExt_gpior : (s.setExt n d).gpior = s.gpior := rfl
@[simp] theorem setExt_ext : (s.setExt n d).ext = s.ext.set n d := rfl
@[simp] theorem setExt_log : (s.setExt n d).log = s.log := rfl
@[simp] theorem setExt_fault : (s.setExt n d).fault = s.fault := rfl
@[simp] theorem setExt_usable : (s.setExt n d).usable = s.usable := rfl
@[simp] theorem setExt_params : (s.setExt n d).params = s.params := rfl
@[simp] theorem setExt_draws : (s.setExt n d).draws = s.draws := rfl

end

/-! ## setGpior -/

section
variable (a : Nat) (v : Byte)

@[simp] theorem setGpior_regs : (s.setGpior a v).regs = s.regs := rfl
@[simp] theorem setGpior_pc : (s.setGpior a v).pc = s.pc := rfl
@[simp] theorem setGpior_sp : (s.setGpior a v).sp = s.sp := rfl
@[simp] theorem setGpior_sreg : (s.setGpior a v).sreg = s.sreg := rfl
@[simp] theorem setGpior_rampd : (s.setGpior a v).rampd = s.rampd := rfl
@[simp] theorem setGpior_rampx : (s.setGpior a v).rampx = s.rampx := rfl
@[simp] theorem setGpior_rampy : (s.setGpior a v).rampy = s.rampy := rfl
@[simp] theorem setGpior_rampz : (s.setGpior a v).rampz = s.rampz := rfl
@[simp] theorem setGpior_eind : (s.setGpior a v).eind = s.eind := rfl
@[simp] theorem setGpior_ccpReg : (s.setGpior a v).ccpReg = s.ccpReg := rfl
@[simp] theorem setGpior_ccpIoreg : (s.setGpior a v).ccpIoreg = s.ccpIoreg := rfl
@[simp] theorem setGpior_ccpSpm : (s.setGpior a v).ccpSpm = s.ccpSpm := rfl
@[simp] theorem setGpior_instructionCycles : (s.setGpior a v).instructionCycles = s.instructionCycles := rfl
@[simp] theorem setGpior_interruptWait : (s.setGpior a v).interruptWait = s.interruptWait := rfl
@[simp] theorem setGpior_breaked : (s.setGpior a v).breaked = s.breaked := rfl
@[simp] theorem setGpior_flash : (s.setGpior a v).flash = s.flash := rfl
@[simp] theorem setGpior_sram : (s.setGpior a v).sram = s.sram := rfl
@[simp] theorem setGpior_pmic : (s.setGpior a v).pmic = s.pmic := rfl
@[simp] theorem setGpior_clk : (s.setGpior a v).clk = s.clk := rfl
@[simp] theorem setGpior_sched : (s.setGpior a v).sched = s.sched := rfl
@[simp] theorem setGpior_gpior : (s.setGpior a v).gpior = s.gpior.set (Fin.ofNat 16 a) v := rfl
@[simp] theorem setGpior_ext : (s.setGpior a v).ext = s.ext := rfl
@[simp] theorem setGpior_log : (s.setGpior a v).log = s.log := rfl
@[simp] theorem setGpior_fault : (s.setGpior a v).fault = s.fault := rfl
@[simp] theorem setGpior_usable : (s.setGpior a v).usable = s.usable := rfl
@[simp] theorem setGpior_params : (s.setGpior a v).params = s.params := rfl
@[simp] theorem setGpior_draws : (s.setGpior a v).draws = s.draws := rfl

end

/-! ## setPair -/

section
variable (r : Reg) (v : Word)

@[simp] theorem setPair_regs : (s.setPair r v).regs = (s.regs.set r (lowByte v)).set (r + 1 : Reg) (highByte v) := rfl
@[simp] theorem setPair_pc : (s.setPair r v).pc = s.pc := rfl
@[simp] theorem setPair_sp : (s.setPair r v).sp = s.sp := rfl
@[simp] theorem setPair_sreg : (s.setPair r v).sreg = s.sreg := rfl
@[simp] theorem setPair_rampd : (s.setPair r v).rampd = s.rampd := rfl
@[simp] theorem setPair_rampx : (s.setPair r v).rampx = s.rampx := rfl
@[simp] theorem setPair_rampy : (s.setPair r v).rampy = s.rampy := rfl
@[simp] theorem setPair_rampz : (s.setPair r v).rampz = s.rampz := rfl
@[simp] theorem setPair_eind : (s.setPair r v).eind = s.eind := rfl
@[simp] theorem setPair_ccpReg : (s.setPair r v).ccpReg = s.ccpReg := rfl
@[simp] theorem setPair_ccpIoreg : (s.setPair r v).ccpIoreg = s.ccpIoreg := rfl
@[simp] theorem setPair_ccpSpm : (s.setPair r v).ccpSpm = s.ccpSpm := rfl
@[simp] theorem setPair_instructionCycles : (s.setPair r v).instructionCycles = s.instructionCycles := rfl
@[simp] theorem setPair_interruptWait : (s.setPair r v).interruptWait = s.interruptWait := rfl
@[simp] theorem setPair_breaked : (s.setPair r v).breaked = s.breaked := rfl
@[simp] theorem setPair_flash : (s.setPair r v).flash = s.flash := rfl
@[simp] theorem setPair_sram : (s.setPair r v).sram = s.sram := rfl
@[simp] theorem setPair_pmic : (s.setPair r v).pmic = s.pmic := rfl
@[simp] theorem setPair_clk : (s.setPair r v).clk = s.clk := rfl
@[simp] theorem setPair_sched : (s.setPair r v).sched = s.sched := rfl
@[simp] theorem setPair_gpior : (s.setPair r v).gpior = s.gpior := rfl
@[simp] theorem setPair_ext : (s.setPair r v).ext = s.ext := rfl
@[simp] theorem setPair_log : (s.setPair r v).log = s.log := rfl
@[simp] theorem setPair_fault : (s.setPair r v).fault = s.fault := rfl
@[simp] theorem setPair_usable : (s.setPair r v).usable = s.usable := rfl
@[simp] theorem setPair_params : (s.setPair r v).params = s.params := rfl
@[simp] theorem setPair_draws : (s.setPair r v).draws = s.draws := rfl

end

/-! ## setRamp -/

section
variable (p : Ptr) (v : Byte)

@[simp] theorem setRamp_regs : (s.setRamp p v).regs = s.regs := by cases p <;> rfl
@[simp] theorem setRamp_pc : (s.setRamp p v).pc = s.pc := by cases p <;> rfl
@[simp] theorem setRamp_sp : (s.setRamp p v).sp = s.sp := by cases p <;> rfl
@[simp] theorem setRamp_sreg : (s.setRamp p v).sreg = s.sreg := by cases p <;> rfl
@[simp] theorem setRamp_rampd : (s.setRamp p v).rampd = s.rampd := by cases p <;> rfl
@[simp] theorem setRamp_eind : (s.setRamp p v).eind = s.eind := by cases p <;> rfl
@[simp] theorem setRamp_ccpReg : (s.setRamp p v).ccpReg = s.ccpReg := by cases p <;> rfl
@[simp] theorem setRamp_ccpIoreg : (s.setRamp p v).ccpIoreg = s.ccpIoreg := by cases p <;> rfl
@[simp] theorem setRamp_ccpSpm : (s.setRamp p v).ccpSpm = s.ccpSpm := by cases p <;> rfl
@[simp] theorem setRamp_instructionCycles : (s.setRamp p v).instructionCycles = s.instructionCycles := by cases p <;> rfl
@[simp] theorem setRamp_interruptWait : (s.setRamp p v).interruptWait = s.interruptWait := by cases p <;> rfl
@[simp] theorem setRamp_breaked : (s.setRamp p v).breaked = s.breaked := by cases p <;> rfl
@[simp] theorem setRamp_flash : (s.setRamp p v).flash = s.flash := by cases p <;> rfl
@[simp] theorem setRamp_sram : (s.setRamp p v).sram = s.sram := by cases p <;> rfl
@[simp] theorem setRamp_pmic : (s.setRamp p v).pmic = s.pmic := by cases p <;> rfl
@[simp] theorem setRamp_clk : (s.setRamp p v).clk = s.clk := by cases p <;> rfl
@[simp] theorem setRamp_sched : (s.setRamp p v).sched = s.sched := by cases p <;> rfl
@[simp] theorem setRamp_gpior : (s.setRamp p v).gpior = s.gpior := by cases p <;> rfl
@[simp] theorem setRamp_ext : (s.setRamp p v).ext = s.ext := by cases p <;> rfl
@[simp] theorem setRamp_log : (s.setRamp p v).log = s.log := by cases p <;> rfl
@[simp] theorem setRamp_fault : (s.setRamp p v).fault = s.fault := by cases p <;> rfl
@[simp] theorem setRamp_usable : (s.setRamp p v).usable = s.usable := by cases p <;> rfl
@[simp] theorem setRamp_params : (s.setRamp p v).params = s.params := by cases p <;> rfl
@[simp] theorem setRamp_draws : (s.setRamp p v).draws = s.draws := by cases p <;> rfl

end

/-! ## drawByte -/

@[simp] theorem drawByte_regs : (drawByte s).2.regs = s.regs := rfl
@[simp] theorem drawByte_pc : (drawByte s).2.pc = s.pc := rfl
@[simp] theorem drawByte_sp : (drawByte s).2.sp = s.sp := rfl
@[simp] theorem drawByte_sreg : (drawByte s).2.sreg = s.sreg := rfl
@[simp] theorem drawByte_rampd : (drawByte s).2.rampd = s.rampd := rfl
@[simp] theorem drawByte_rampx : (drawByte s).2.rampx = s.rampx := rfl
@[simp] theorem drawByte_rampy : (drawByte s).2.rampy = s.rampy := rfl
@[simp] theorem drawByte_rampz : (drawByte s).2.rampz = s.rampz := rfl
@[simp] theorem drawByte_eind : (drawByte s).2.eind = s.eind := rfl
@[simp] theorem drawByte_ccpReg : (drawByte s).2.ccpReg = s.ccpReg := rfl
@[simp] theorem drawByte_ccpIoreg : (drawByte s).2.ccpIoreg = s.ccpIoreg := rfl
@[simp] theorem drawByte_ccpSpm : (drawByte s).2.ccpSpm = s.ccpSpm := rfl
@[simp] theorem drawByte_instructionCycles : (drawByte s).2.instructionCycles = s.instructionCycles := rfl
@[simp] theorem drawByte_interruptWait : (drawByte s).2.interruptWait = s.interruptWait := rfl
@[simp] theorem drawByte_breaked : (drawByte s).2.breaked = s.breaked := rfl
@[simp] theorem drawByte_flash : (drawByte s).2.flash = s.flash := rfl
@[simp] theorem drawByte_sram : (drawByte s).2.sram = s.sram := rfl
@[simp] theorem drawByte_pmic : (drawByte s).2.pmic = s.pmic := rfl
@[simp] theorem drawByte_clk : (drawByte s).2.clk = s.clk := rfl
@[simp] theorem drawByte_sched : (drawByte s).2.sched = s.sched := rfl
@[simp] theorem drawByte_gpior : (drawByte s).2.gpior = s.gpior := rfl
@[simp] theorem drawByte_ext : (drawByte s).2.ext = s.ext := rfl
@[simp] theorem drawByte_log : (drawByte s).2.log = s.log := rfl
@[simp] theorem drawByte_fault : (drawByte s).2.fault = s.fault := rfl
@[simp] theorem drawByte_usable : (drawByte s).2.usable = s.usable := rfl
@[simp] theorem drawByte_params : (drawByte s).2.params = s.params := rfl
@[simp] theorem drawByte_draws : (drawByte s).2.draws = s.draws + 1 := rfl

/-! ## Register reads -/

/-- Reading a register after writing one. -/
@[simp] theorem reg_setReg (r q : Reg) (v : Byte) : (s.setReg r v).reg q = if r = q then v else s.reg q := by
  simp [State.setReg, State.reg, Vector.getElem_set, Fin.ext_iff]

@[simp] theorem reg_record (q : Reg) (r : LogRecord) : (s.record r).reg q = s.reg q := rfl
@[simp] theorem reg_setSreg (q : Reg) (v : Byte) : (s.setSreg v).reg q = s.reg q := rfl
@[simp] theorem reg_setPc (q : Reg) (v : Int) : (s.setPc v).reg q = s.reg q := rfl
@[simp] theorem reg_setSp (q : Reg) (v : Word) : (s.setSp v).reg q = s.reg q := rfl
@[simp] theorem reg_retire (q : Reg) (w : Int) (f : Form) (n : Nat) : (s.retire w f n).reg q = s.reg q := rfl
@[simp] theorem reg_jump (q : Reg) (v : Int) (f : Form) (n : Nat) : (s.jump v f n).reg q = s.reg q := rfl
@[simp] theorem reg_setRamp (q : Reg) (p : Ptr) (v : Byte) : (s.setRamp p v).reg q = s.reg q := by cases p <;> rfl
@[simp] theorem reg_setSram (q : Reg) (a : Nat) (v : Byte) : (s.setSram a v).reg q = s.reg q := rfl
@[simp] theorem reg_drawByte (q : Reg) : (drawByte s).2.reg q = s.reg q := rfl

end Sys2Proof.Machine
end

