-- ==== Sys2Proof/Laws/Keeps.lean ====
section
/-! SUPPORT. What an instruction and a step can do, said once: every next state is reached through the named updates of
`Keeps`. A property that each named update keeps is kept by every instruction and by every step. -/

namespace Sys2Proof.Machine

open Sys2Proof

/-- The named updates an instruction other than RETI and BREAK is made of. -/
structure Keeps (P : State → Prop) : Prop where
  record : ∀ s r, P s → P (s.record r)
  draw : ∀ s, P s → P (drawByte s).2
  reg : ∀ s r v, P s → P (s.setReg r v)
  sreg : ∀ s v, P s → P (s.setSreg v)
  pc : ∀ s v, P s → P (s.setPc v)
  sp : ∀ s v, P s → P (s.setSp v)
  rampd : ∀ s v, P s → P (s.setRampd v)
  rampx : ∀ s v, P s → P (s.setRampx v)
  rampy : ∀ s v, P s → P (s.setRampy v)
  rampz : ∀ s v, P s → P (s.setRampz v)
  eind : ∀ s v, P s → P (s.setEind v)
  cycles : ∀ s n, P s → P { s with instructionCycles := n }
  ccp : ∀ s v, P s → P (writeCcp v s)
  sram : ∀ s a v, inSram s.params a = true → P s → P (s.setSram a v)
  gpior : ∀ s a v, P s → P (s.setGpior a v)
  ext : ∀ s n d, P s → P (s.setExt n d)
  ivLevel : ∀ s iv l, P s → P (setIvLevel iv l s)
  intpri : ∀ s v, P s → P (s.setPmic { s.pmic with intpri := v })
  pmicCtrl : ∀ s v, P s → P (s.setPmic { s.pmic with ctrl := v })
  clkCtrl : ∀ s v, P s → P (s.setClk { s.clk with ctrl := v &&& 0x07 })
  clkLock : ∀ s v, P s → P (s.setClk { s.clk with lock := s.clk.lock ||| (v &&& 0x01) })
  clkRtc : ∀ s v, P s → P (s.setClk { s.clk with rtcctrl := v })
  psctrl : ∀ s v, (prescA v).isSome = true → P s →
    P (onClockConfigChange (s.setClk { s.clk with psctrl := v &&& 0x7F }))
  schedule : ∀ s d c n p call h t, schedule d c n p call s = .ok (h, t) → P s → P t
  unschedule : ∀ s h t, unschedule h s = .ok t → P s → P t

/-- The further updates a step is made of. -/
structure KeepsStep (P : State → Prop) : Prop extends Keeps P where
  wait : ∀ s b, P s → P { s with interruptWait := b }
  breaked : ∀ s b, P s → P { s with breaked := b }
  countDown : ∀ s, P s → P (ccpCountDown s)
  acknowledge : ∀ s l iv, P s → P (s.setPmic (s.pmic.acknowledge l iv))
  retiClear : ∀ s, P s → P (pmicRetiClear s)
  tick : ∀ s e, minEvent s.sched.heap = some e → P s → P (s.atTick e.tick)
  fire : ∀ s e, minEvent s.sched.heap = some e → e.tick ≤ s.sched.currentSysTick → P s →
    P (s.setSched { s.sched with heap := s.sched.heap.erase e, running := some e })
  endCallback : ∀ s n, P s → P (endCallback n s)

/-! ## Answers of operations -/

theorem map_ok {α β : Type} {x : Except Fault α} {f : α → β} {b : β} (h : x.map f = .ok b) :
    ∃ a, x = .ok a ∧ f a = b := by
  cases x with
  | error e => simp [Except.map] at h
  | ok a => exact ⟨a, rfl, by simpa [Except.map] using h⟩

theorem bind_ok {α β : Type} {x : Except Fault α} {f : α → Except Fault β} {b : β} (h : x.bind f = .ok b) :
    ∃ a, x = .ok a ∧ f a = .ok b := by
  cases x with
  | error e => simp [Except.bind] at h
  | ok a => exact ⟨a, rfl, h⟩

theorem finish_next {r : Act} {k : State → State} {t : State} (h : finish r k = .next t) : ∃ s, r = .ok s ∧ t = k s := by
  cases r with
  | error e => simp [finish] at h
  | ok s => exact ⟨s, rfl, by simpa [finish] using h.symm⟩

theorem andThen_next {r : Result} {k : State → Result} {t : State} (h : andThen r k = .next t) :
    ∃ s, r = .next s ∧ k s = .next t := by
  cases r with
  | next s => exact ⟨s, rfl, h⟩
  | fault f => simp [andThen] at h
  | refused e => simp [andThen] at h

variable {P : State → Prop}

/-! ## The router -/

theorem Keeps.serve (K : Keeps P) {o : Nat} {c : ServiceCall} {s t : State} (h : serve o c s = .ok t) (hs : P s) : P t := by
  cases c with
  | setIvLevel iv l => simp [Machine.serve] at h; subst h; exact K.ivLevel s iv l hs
  | schedule d tag n p =>
    obtain ⟨⟨x, y⟩, h1, h2⟩ := map_ok h
    simp at h2; subst h2
    exact K.schedule _ _ _ _ _ _ _ _ h1 hs
  | unschedule x => exact K.unschedule _ _ _ h hs

theorem Keeps.serveAll (K : Keeps P) {o : Nat} {cs : List ServiceCall} {s t : State} (h : serveAll o cs s = .ok t)
    (hs : P s) : P t := by
  induction cs generalizing s with
  | nil => simp [Machine.serveAll] at h; subst h; exact hs
  | cons c cs ih =>
    obtain ⟨u, h1, h2⟩ := bind_ok h
    exact ih h2 (K.serve h1 hs)

theorem Keeps.hookReply (K : Keeps P) {n : Nat} {b : BlockDecl} {r : HookReply} {s t : State}
    (h : hookReply n b r s = .ok t) (hs : P s) : P t := by
  unfold Machine.hookReply at h
  split at h
  · exact K.serveAll h (K.ext _ _ _ hs)
  · simp at h; subst h; exact K.ext _ _ _ hs

theorem Keeps.cpuRead (K : Keeps P) (a : Nat) {s : State} (hs : P s) : P (cpuRead a s).2 := by
  unfold Machine.cpuRead
  split <;> first | exact hs | exact K.draw s hs

theorem Keeps.clkRead (K : Keeps P) (a : Nat) {s : State} (hs : P s) : P (clkRead a s).2 := by
  unfold Machine.clkRead
  split <;> first | exact hs | exact K.draw s hs

theorem Keeps.cpuWrite (K : Keeps P) (a : Nat) (v : Byte) {s : State} (hs : P s) : P (cpuWrite a v s) := by
  unfold Machine.cpuWrite
  split
  · exact K.ccp s v hs
  · exact K.rampd s v hs
  · exact K.rampx s v hs
  · exact K.rampy s v hs
  · exact K.rampz s v hs
  · exact K.eind s v hs
  · exact K.sp s _ hs
  · exact K.sp s _ hs
  · exact K.sreg s v hs
  · exact hs

theorem Keeps.clkWrite (K : Keeps P) (a addr : Nat) (v : Byte) {s : State} (hs : P s) : P (clkWrite a addr v s) := by
  unfold Machine.clkWrite
  split
  · split
    · exact K.clkCtrl s v hs
    · exact K.record s _ hs
  · split
    · unfold writePsctrl
      split
      · exact K.record s _ hs
      · next h => exact K.psctrl s v (by simp [h]) hs
    · exact K.record s _ hs
  · split
    · exact K.clkLock s v hs
    · exact K.record s _ hs
  · exact K.clkRtc s v hs
  · exact hs

theorem Keeps.pmicWrite (K : Keeps P) (a addr : Nat) (v : Byte) {s : State} (hs : P s) : P (pmicWrite a addr v s) := by
  unfold Machine.pmicWrite
  split
  · exact K.record s _ hs
  · exact K.intpri s v hs
  · exact K.pmicCtrl s v hs

theorem Keeps.blockGetIo (K : Keeps P) {n a : Nat} {b : BlockDecl} {v : Byte} {s t : State}
    (h : blockGetIo n b a s = .ok (v, t)) (hs : P s) : P t := by
  unfold Machine.blockGetIo at h
  split at h
  · injection h with h; have p := K.cpuRead a hs; rw [h] at p; exact p
  · injection h with h; have p := K.clkRead a hs; rw [h] at p; exact p
  · simp at h; rw [← h.2]; exact hs
  · simp at h; rw [← h.2]; exact hs
  · obtain ⟨u, h1, h2⟩ := map_ok h
    simp at h2; rw [← h2.2]; exact K.hookReply h1 hs

theorem Keeps.blockSetIo (K : Keeps P) {n a : Nat} {b : BlockDecl} {v : Byte} {s t : State}
    (h : blockSetIo n b a v s = .ok t) (hs : P s) : P t := by
  unfold Machine.blockSetIo at h
  split at h
  · simp at h; subst h; exact K.cpuWrite _ v hs
  · simp at h; subst h; exact K.clkWrite _ _ v hs
  · simp at h; subst h; exact K.pmicWrite _ _ v hs
  · simp at h; subst h; exact K.gpior s _ v hs
  · exact K.hookReply h hs

theorem Keeps.blockExecuteIv (K : Keeps P) {n iv : Nat} {b : BlockDecl} {s t : State}
    (h : blockExecuteIv n b iv s = .ok t) (hs : P s) : P t := by
  unfold Machine.blockExecuteIv at h
  split at h
  · exact K.hookReply h hs
  · simp at h; subst h; exact hs

theorem Keeps.ioRead (K : Keeps P) {a : Nat} {v : Byte} {s t : State} (h : ioRead a s = .ok (v, t)) (hs : P s) : P t := by
  unfold Machine.ioRead at h
  split at h
  · simp at h; rw [← h.2]; exact K.record s _ hs
  · exact K.blockGetIo h hs

theorem Keeps.ioWrite (K : Keeps P) {a : Nat} {v : Byte} {s t : State} (h : ioWrite a v s = .ok t) (hs : P s) : P t := by
  unfold Machine.ioWrite at h
  split at h
  · simp at h; subst h; exact K.record s _ hs
  · exact K.blockSetIo h hs

theorem Keeps.memRead (K : Keeps P) {a : DataAddr} {v : Byte} {s t : State} (h : memRead a s = .ok (v, t)) (hs : P s) :
    P t := by
  unfold Machine.memRead at h
  simp only at h
  split at h
  · exact K.ioRead h hs
  · simp [drawByte] at h; rw [← h.2]; exact K.draw _ (K.record s _ hs)
  · simp at h; rw [← h.2]; exact hs
  · unfold emuRead at h
    split at h
    · simp at h; rw [← h.2]; exact hs
    · simp [drawByte] at h; rw [← h.2]; exact K.draw _ hs
  · simp [drawByte] at h; rw [← h.2]; exact K.draw _ (K.record s _ hs)
  · simp at h; rw [← h.2]; exact K.record s _ hs

/-- An address the router sends to SRAM lies in internal SRAM. -/
theorem inSram_of_region {p : Params} {a : Nat} (h : regionOf p a = .sram) : inSram p a = true := by
  unfold regionOf at h
  split at h
  · simp at h
  · split at h
    · simp at h
    · split at h
      · assumption
      · split at h
        · simp at h
        · split at h <;> simp at h

theorem Keeps.memWrite (K : Keeps P) {a : DataAddr} {v : Byte} {s t : State} (h : memWrite a v s = .ok t) (hs : P s) :
    P t := by
  unfold Machine.memWrite at h
  simp only at h
  split at h
  · exact K.ioWrite h hs
  · simp at h; subst h; exact K.record s _ hs
  · next hr => simp at h; subst h; exact K.sram s _ v (inSram_of_region hr) hs
  · simp at h; subst h; exact K.record s _ hs
  · simp at h; subst h; exact K.record s _ hs
  · simp at h; subst h; exact K.record s _ hs

/-! ## The stack -/

theorem Keeps.push8 (K : Keeps P) {v : Byte} {s t : State} (h : push8 v s = .ok t) (hs : P s) : P t := by
  unfold Machine.push8 at h
  split at h
  · obtain ⟨u, h1, h2⟩ := map_ok h
    subst h2; exact K.sp _ _ (K.memWrite h1 hs)
  · simp at h

theorem Keeps.pop8 (K : Keeps P) {v : Byte} {s t : State} (h : pop8 s = .ok (v, t)) (hs : P s) : P t := by
  unfold Machine.pop8 at h
  simp only at h
  split at h
  · exact K.memRead h (K.sp _ _ hs)
  · simp at h

theorem Keeps.pushPc (K : Keeps P) {v : Int} {s t : State} (h : pushPc v s = .ok t) (hs : P s) : P t := by
  obtain ⟨s1, h1, h⟩ := bind_ok (f := _) h
  obtain ⟨s2, h2, h⟩ := bind_ok (f := _) h
  have p2 := K.push8 h2 (K.push8 h1 hs)
  split at h
  · exact K.push8 h p2
  · simp at h; subst h; exact p2

theorem Keeps.popPc (K : Keeps P) {v : Int} {s t : State} (h : popPc s = .ok (v, t)) (hs : P s) : P t := by
  have tail : ∀ {b : Byte} {u : State}, P u →
      (Machine.pop8 u).bind (fun p => (Machine.pop8 p.2).bind (fun q =>
        Except.ok ((((b ++ (p.1 ++ q.1) : DataAddr).toNat : Int)), q.2))) = .ok (v, t) → P t := by
    intro b u hu h
    obtain ⟨⟨b1, s1⟩, h1, h⟩ := bind_ok h
    obtain ⟨⟨b2, s2⟩, h2, h⟩ := bind_ok h
    simp at h
    rw [← h.2]; exact K.pop8 h2 (K.pop8 h1 hu)
  unfold Machine.popPc at h
  split at h
  · obtain ⟨⟨b0, s0⟩, h0, h⟩ := bind_ok (f := _) h
    exact tail (K.pop8 h0 hs) h
  · exact tail (b := 0) hs h

/-! ## Composite updates -/

theorem Keeps.setPair (K : Keeps P) (s : State) (r : Reg) (v : Word) (hs : P s) : P (s.setPair r v) :=
  K.reg _ _ _ (K.reg _ _ _ hs)

theorem Keeps.setRamp (K : Keeps P) (s : State) (p : Ptr) (v : Byte) (hs : P s) : P (s.setRamp p v) := by
  cases p
  · exact K.rampx s v hs
  · exact K.rampy s v hs
  · exact K.rampz s v hs

theorem Keeps.setFull (K : Keeps P) (s : State) (p : Ptr) (v : DataAddr) (hs : P s) : P (s.setFull p v) :=
  K.setRamp _ _ _ (K.setPair _ _ _ hs)

theorem Keeps.retire (K : Keeps P) (s : State) (w : Int) (f : Form) (n : Nat) (hs : P s) : P (s.retire w f n) :=
  K.cycles _ _ (K.pc _ _ hs)

theorem Keeps.jump (K : Keeps P) (s : State) (v : Int) (f : Form) (n : Nat) (hs : P s) : P (s.jump v f n) :=
  K.cycles _ _ (K.pc _ _ hs)

theorem Keeps.logOverlap (K : Keeps P) (p : Ptr) (r : Reg) (i : Instr) (s : State) (hs : P s) : P (logOverlap p r i s) := by
  unfold Machine.logOverlap
  split
  · exact K.record _ _ hs
  · exact hs

theorem Keeps.drawPair (K : Keeps P) (p : Ptr) (s : State) (hs : P s) : P (drawPair p s) :=
  K.reg _ _ _ (K.reg _ _ _ (K.draw _ (K.draw _ hs)))

theorem Keeps.spoilLoad (K : Keeps P) (p : Ptr) (r : Reg) (s : State) (hs : P s) : P (spoilLoad p r s) := by
  unfold Machine.spoilLoad
  split
  · exact K.setRamp _ _ _ (K.draw _ (K.drawPair p s hs))
  · exact hs

theorem Keeps.storeByte (K : Keeps P) (p : Ptr) (r : Reg) (s : State) (hs : P s) : P (storeByte p r s).2 := by
  unfold Machine.storeByte
  split
  · exact K.draw _ hs
  · exact hs

theorem Keeps.loadAt (K : Keeps P) {a : DataAddr} {d : Reg} {s t : State} (h : loadAt a d s = .ok t) (hs : P s) : P t := by
  obtain ⟨⟨v, u⟩, h1, h2⟩ := map_ok h
  subst h2; exact K.reg _ _ _ (K.memRead h1 hs)

theorem Keeps.loadInc (K : Keeps P) {p : Ptr} {d : Reg} {i : Instr} {s t : State} (h : loadInc p d i s = .ok t) (hs : P s) :
    P t := by
  obtain ⟨u, h1, h2⟩ := map_ok h
  subst h2
  exact K.spoilLoad _ _ _ (K.setFull _ _ _ (K.loadAt h1 (K.logOverlap _ _ _ _ hs)))

theorem Keeps.loadDec (K : Keeps P) {p : Ptr} {d : Reg} {i : Instr} {s t : State} (h : loadDec p d i s = .ok t) (hs : P s) :
    P t := by
  obtain ⟨u, h1, h2⟩ := map_ok h
  subst h2
  exact K.spoilLoad _ _ _ (K.loadAt h1 (K.setFull _ _ _ (K.logOverlap _ _ _ _ hs)))

theorem Keeps.storeInc (K : Keeps P) {p : Ptr} {r : Reg} {i : Instr} {s t : State} (h : storeInc p r i s = .ok t) (hs : P s) :
    P t := by
  obtain ⟨u, h1, h2⟩ := map_ok h
  subst h2
  exact K.setFull _ _ _ (K.memWrite h1 (K.storeByte _ _ _ (K.logOverlap _ _ _ _ hs)))

theorem Keeps.storeDec (K : Keeps P) {p : Ptr} {r : Reg} {i : Instr} {s t : State} (h : storeDec p r i s = .ok t) (hs : P s) :
    P t :=
  K.memWrite h (K.storeByte _ _ _ (K.setFull _ _ _ (K.logOverlap _ _ _ _ hs)))

theorem Keeps.exchange (K : Keeps P) {f : Byte → Byte → Byte} {d : Reg} {s t : State} (h : exchange f d s = .ok t)
    (hs : P s) : P t := by
  obtain ⟨⟨v, s1⟩, h1, h⟩ := bind_ok (f := _) h
  obtain ⟨s2, h2, h⟩ := bind_ok (f := _) h
  simp [pure, Except.pure] at h
  subst h
  exact K.reg _ _ _ (K.memWrite h2 (K.memRead h1 hs))

theorem Keeps.ioModify (K : Keeps P) {f : Byte → Byte} {a : BitVec 5} {s t : State} (h : ioModify f a s = .ok t)
    (hs : P s) : P t := by
  obtain ⟨⟨v, s1⟩, h1, h⟩ := bind_ok (f := _) h
  exact K.memWrite h (K.memRead h1 hs)

theorem Keeps.loadFlash (K : Keeps P) {b : Nat} {d : Reg} {s t : State} (h : loadFlash b d s = .ok t) (hs : P s) : P t := by
  obtain ⟨v, _, h2⟩ := map_ok h
  subst h2; exact K.reg _ _ _ hs

theorem Keeps.skipIf (K : Keeps P) {c : Bool} {f : Form} {s t : State} (h : skipIf c f s = .next t) (hs : P s) : P t := by
  unfold Machine.skipIf at h
  split at h
  · split at h
    · split at h <;> (simp at h; subst h; exact K.retire _ _ _ _ hs)
    · simp at h
  · simp at h; subst h; exact K.retire _ _ _ _ hs

theorem Keeps.skipOnIo (K : Keeps P) {a : BitVec 5} {c : Byte → Bool} {f : Form} {s t : State}
    (h : skipOnIo a c f s = .next t) (hs : P s) : P t := by
  unfold Machine.skipOnIo at h
  split at h
  · next h1 => exact K.skipIf h (K.memRead h1 hs)
  · simp at h

theorem Keeps.callTo (K : Keeps P) {r v : Int} {f : Form} {n : Nat} {s t : State} (h : callTo r v f n s = .next t)
    (hs : P s) : P t := by
  obtain ⟨u, h1, h2⟩ := finish_next h
  subst h2; exact K.jump _ _ _ _ (K.pushPc h1 hs)

theorem Keeps.returnWith (K : Keeps P) {f : Form} {n : Nat} {s t : State} (h : returnWith (Machine.popPc s) f n = .next t)
    (hs : P s) : P t := by
  unfold Machine.returnWith at h
  split at h
  · next h1 => simp at h; subst h; exact K.jump _ _ _ _ (K.popPc h1 hs)
  · simp at h

/-! ## Every instruction -/

/-- A property that every named update keeps is kept by every instruction that has a next state; RETI also clears a level, and
BREAK also sets its flag. -/
theorem exec_keeps (K : Keeps P) {i : Instr} {s t : State} (hreti : i = .reti → ∀ s, P s → P (pmicRetiClear s))
    (hbrk : i = .brk → ∀ s : State, P s → P { s with breaked := true }) (h : exec i s = .next t) (hs : P s) : P t := by
  have fin : ∀ {r : Act} {w : Int} {f : Form} {n : Nat}, finish r (·.retire w f n) = .next t →
      (∀ u, r = .ok u → P u) → P t := by
    intro r w f n h hr
    obtain ⟨u, h1, h2⟩ := finish_next h
    subst h2; exact K.retire _ _ _ _ (hr u h1)
  cases i with
  | nop | movw | muls | mulsu | fmul | fmuls | fmulsu | mul | cpc | sbc | add | cp | sub | adc | and | eor | or | mov | cpi
  | sbci | subi | ori | andi | ldi | com | neg | swap | inc | dec | asr | lsr | ror | bset | bclr | bst | bld | adiw | sbiw
  | sleep | wdr | des | spm | spmZInc =>
    injection h with h
    subst h
    apply K.retire
    first
      | exact hs
      | exact K.sreg _ _ (K.setPair _ _ _ hs)
      | exact K.setPair _ _ _ hs
      | exact K.sreg _ _ (K.reg _ _ _ hs)
      | exact K.sreg _ _ hs
  | jmp | rjmp | ijmp => injection h with h; subst h; exact K.jump _ _ _ _ hs
  | brk => injection h with h; subst h; exact K.retire _ _ _ _ (hbrk rfl _ hs)
  | ldZ | ldY | ldX | lddZ | lddY | lds | inp => exact fin h fun u hu => K.loadAt hu hs
  | stZ | stY | stX | stdZ | stdY | sts | outp => exact fin h fun u hu => K.memWrite hu hs
  | ldZInc | ldYInc | ldXInc => exact fin h fun u hu => K.loadInc hu hs
  | ldZDec | ldYDec | ldXDec => exact fin h fun u hu => K.loadDec hu hs
  | stZInc | stYInc | stXInc => exact fin h fun u hu => K.storeInc hu hs
  | stZDec | stYDec | stXDec => exact fin h fun u hu => K.storeDec hu hs
  | lpmR0 | lpmZ | elpmR0 | elpmZ => exact fin h fun u hu => K.loadFlash hu hs
  | lpmZInc d =>
    obtain ⟨u, h1, h2⟩ := finish_next h
    subst h2
    apply K.retire
    have hu : ∀ v, P (u.setPair 30 v) := fun v => K.setPair u 30 v (K.loadFlash h1 (K.logOverlap _ _ _ _ hs))
    split
    · exact K.drawPair _ _ (hu _)
    · exact hu _
  | elpmZInc d =>
    obtain ⟨u, h1, h2⟩ := finish_next h
    subst h2
    exact K.retire _ _ _ _ (K.spoilLoad _ _ _ (K.setFull _ _ _ (K.loadFlash h1 (K.logOverlap _ _ _ _ hs))))
  | xch | las | lac | lat => exact fin h fun u hu => K.exchange hu hs
  | sbi | cbi => exact fin h fun u hu => K.ioModify hu hs
  | push => exact fin h fun u hu => K.push8 hu hs
  | pop =>
    refine fin h fun u hu => ?_
    obtain ⟨⟨v, w⟩, h1, h2⟩ := map_ok hu
    subst h2; exact K.reg _ _ _ (K.pop8 h1 hs)
  | call | rcall | icall => exact K.callTo h hs
  | eijmp =>
    have h : execEijmp s = .next t := h
    unfold execEijmp at h
    split at h
    · injection h with h; subst h; exact K.jump _ _ _ _ hs
    · injection h with h; subst h; exact K.retire _ _ _ _ (K.record _ _ hs)
  | eicall =>
    have h : execEicall s = .next t := h
    unfold execEicall at h
    split at h
    · exact K.callTo h hs
    · injection h with h; subst h; exact K.retire _ _ _ _ (K.record _ _ hs)
  | ret => exact K.returnWith h hs
  | reti => exact K.returnWith (s := pmicRetiClear s) h (hreti rfl s hs)
  | brbs f k =>
    have h : branchIf _ k _ s = .next t := h
    unfold branchIf at h
    split at h
    · injection h with h; subst h; exact K.jump _ _ _ _ hs
    · injection h with h; subst h; exact K.retire _ _ _ _ hs
  | brbc f k =>
    have h : branchIf _ k _ s = .next t := h
    unfold branchIf at h
    split at h
    · injection h with h; subst h; exact K.jump _ _ _ _ hs
    · injection h with h; subst h; exact K.retire _ _ _ _ hs
  | cpse | sbrc | sbrs => exact K.skipIf h hs
  | sbic | sbis => exact K.skipOnIo h hs

/-! ## Every step -/

theorem KeepsStep.executeNext (K : KeepsStep P) {s t : State} (h : executeNext s = .next t) (hs : P s) : P t := by
  unfold Machine.executeNext at h
  split at h
  · simp at h
  · split at h
    · simp at h
    · split at h
      · exact exec_keeps K.toKeeps (fun _ => K.retiClear) (fun _ s hs => K.breaked s true hs) h hs
      · injection h with h; subst h; exact K.toKeeps.retire _ _ _ _ (K.record _ _ hs)

theorem KeepsStep.executeIv (K : KeepsStep P) {iv : Nat} {s t : State} (h : executeIv iv s = .ok t) (hs : P s) : P t := by
  unfold Machine.executeIv at h
  split at h
  · exact K.toKeeps.blockExecuteIv h hs
  · simp at h; subst h; exact hs

theorem KeepsStep.dispatch (K : KeepsStep P) {l : Level} {iv : Nat} {s t : State} (h : dispatch l iv s = .ok t) (hs : P s) :
    P t := by
  obtain ⟨s1, h1, h⟩ := bind_ok (f := _) h
  obtain ⟨s2, h2, h⟩ := bind_ok (f := _) h
  simp [pure, Except.pure] at h
  subst h
  have p1 := K.toKeeps.pushPc h1 (K.acknowledge s l iv hs)
  exact K.wait { s2 with instructionCycles := 5 } true (K.cycles s2 5 (K.executeIv h2 (K.pc _ _ p1)))

theorem KeepsStep.tryDispatch (K : KeepsStep P) {s t : State} (h : tryDispatch s = .ok t) (hs : P s) : P t := by
  unfold Machine.tryDispatch at h
  split at h
  · split at h
    · exact K.dispatch h hs
    · simp at h; subst h; exact hs
  · simp at h; subst h; exact hs

theorem KeepsStep.cpuStep (K : KeepsStep P) {s t : State} (h : cpuStep s = .next t) (hs : P s) : P t := by
  unfold Machine.cpuStep at h
  split at h
  · simp at h
  · next h1 =>
    have p1 := K.tryDispatch h1 (K.countDown _ (K.breaked s false hs))
    unfold executeAndPay at h
    split at h
    · obtain ⟨u, h2, h3⟩ := andThen_next h
      injection h3 with h3; subst h3
      exact K.cycles _ _ (K.wait _ _ (K.executeNext h2 p1))
    · injection h with h; subst h
      exact K.cycles _ _ p1

theorem KeepsStep.fireEvent (K : KeepsStep P) {e : Event} {s t : State} (hm : minEvent s.sched.heap = some e)
    (ht : e.tick ≤ s.sched.currentSysTick) (h : fireEvent e s = .next t) (hs : P s) : P t := by
  have p1 := K.fire s e hm ht hs
  unfold Machine.fireEvent at h
  simp only at h
  split at h
  · obtain ⟨u, h2, h3⟩ := andThen_next h
    injection h3 with h3; subst h3
    exact K.endCallback _ _ (K.cpuStep h2 p1)
  · split at h
    · next h2 =>
      injection h with h; subst h
      exact K.endCallback _ _ (K.toKeeps.serveAll h2 (K.ext _ _ _ p1))
    · simp at h

theorem KeepsStep.fireDue (K : KeepsStep P) {n : Nat} {s t : State} (h : fireDue n s = .next t) (hs : P s) : P t := by
  induction n generalizing s with
  | zero => injection h with h; subst h; exact hs
  | succ n ih =>
    unfold Machine.fireDue at h
    split at h
    · injection h with h; subst h; exact hs
    · next hm =>
      split at h
      · next ht =>
        obtain ⟨u, h2, h3⟩ := andThen_next h
        exact ih h3 (K.fireEvent hm ht h2 hs)
      · injection h with h; subst h; exact hs

/-- A property that every named update keeps is kept by every step. -/
theorem step_keeps (K : KeepsStep P) {s t : State} (h : step s = .next t) (hs : P s) : P t := by
  have h : schedulerStep s = .next t := h
  unfold schedulerStep at h
  split at h
  · split at h
    · simp at h
    · split at h
      · simp at h
      · next hm => exact K.fireDue h (K.tick _ _ hm hs)
  · simp at h

end Sys2Proof.Machine
end

