-- ==== Sys2Proof/Laws/Memory.lean ====
section
/-! SUPPORT. The laws of memories as sorted lists: what is read after a write, and that every operation keeps the canonical
form. -/

namespace Sys2Proof.Machine

open Sys2Proof

/-! ## Sortedness -/

/-- Every address of a memory lies above a bound. -/
def memAbove (x : Nat) (m : Memory) : Prop := ∀ c ∈ m, x < c.1

/-- A sorted memory, seen from its first entry. -/
theorem memSorted_cons (a : Nat) (v : Byte) (m : Memory) :
    memSorted ((a, v) :: m) = true ↔ memAbove a m ∧ memSorted m = true := by
  induction m generalizing a v with
  | nil => simp [memSorted, memAbove]
  | cons c m ih =>
    obtain ⟨b, w⟩ := c
    have hu : memSorted ((a, v) :: (b, w) :: m) = true ↔ a < b ∧ memSorted ((b, w) :: m) = true := by
      rw [memSorted]; simp
    rw [hu]
    constructor
    · rintro ⟨h, hs⟩
      refine ⟨?_, hs⟩
      intro c hc
      rcases List.mem_cons.mp hc with rfl | hc
      · exact h
      · exact Nat.lt_trans h (((ih b w).mp hs).1 c hc)
    · rintro ⟨h, hs⟩
      exact ⟨h (b, w) (by simp), hs⟩

/-- Nothing is listed below the first entry. -/
theorem memGet_above {x : Nat} {m : Memory} (h : memAbove x m) : memGet m x = none := by
  cases m with
  | nil => rfl
  | cons c m =>
    obtain ⟨a, v⟩ := c
    have ha : x < a := h (a, v) (by simp)
    simp [memGet, Nat.ne_of_lt ha, ha]

theorem memSet_above {x a : Nat} {m : Memory} {v : Byte} (hx : x < a) (h : memAbove x m) : memAbove x (memSet m a v) := by
  induction m with
  | nil => intro c hc; simp [memSet] at hc; subst hc; exact hx
  | cons c m ih =>
    obtain ⟨b, w⟩ := c
    have hb : x < b := h (b, w) (by simp)
    have hm : memAbove x m := fun c hc => h c (by simp [hc])
    unfold memSet
    split
    · intro c hc
      rcases List.mem_cons.mp hc with rfl | hc
      · exact hx
      · exact hm c hc
    · split
      · intro c hc
        rcases List.mem_cons.mp hc with rfl | hc
        · exact hx
        · exact h c hc
      · intro c hc
        rcases List.mem_cons.mp hc with rfl | hc
        · exact hb
        · exact ih hm c hc

theorem memErase_above {x a : Nat} {m : Memory} (h : memAbove x m) : memAbove x (memErase m a) := by
  induction m with
  | nil => exact h
  | cons c m ih =>
    obtain ⟨b, w⟩ := c
    have hm : memAbove x m := fun c hc => h c (by simp [hc])
    unfold memErase
    split
    · exact hm
    · split
      · exact h
      · intro c hc
        rcases List.mem_cons.mp hc with rfl | hc
        · exact h (b, w) (by simp)
        · exact ih hm c hc

/-- A write keeps a memory sorted. -/
theorem memSet_sorted {m : Memory} (x : Nat) (w : Byte) (h : memSorted m = true) : memSorted (memSet m x w) = true := by
  induction m with
  | nil => rfl
  | cons c m ih =>
    obtain ⟨a, v⟩ := c
    obtain ⟨ha, hm⟩ := (memSorted_cons a v m).mp h
    unfold memSet
    split
    · next e => subst e; exact (memSorted_cons _ _ _).mpr ⟨ha, hm⟩
    · split
      · next hlt =>
        refine (memSorted_cons _ _ _).mpr ⟨?_, h⟩
        intro c hc
        rcases List.mem_cons.mp hc with rfl | hc
        · exact hlt
        · exact Nat.lt_trans hlt (ha c hc)
      · next hne hnlt => exact (memSorted_cons _ _ _).mpr ⟨memSet_above (by omega) ha, ih hm⟩

/-- An erasure keeps a memory sorted. -/
theorem memErase_sorted {m : Memory} (x : Nat) (h : memSorted m = true) : memSorted (memErase m x) = true := by
  induction m with
  | nil => rfl
  | cons c m ih =>
    obtain ⟨a, v⟩ := c
    obtain ⟨ha, hm⟩ := (memSorted_cons a v m).mp h
    unfold memErase
    split
    · exact hm
    · split
      · exact h
      · exact (memSorted_cons _ _ _).mpr ⟨memErase_above ha, ih hm⟩

/-! ## Reads after writes -/

/-- A read after a write of the same list: the written byte there, the old one elsewhere. -/
theorem memGet_memSet (m : Memory) (x y : Nat) (w : Byte) :
    memGet (memSet m x w) y = if y = x then some w else memGet m y := by
  induction m with
  | nil =>
    by_cases h : y = x
    · subst h; simp [memSet, memGet]
    · simp [memSet, memGet, h]
  | cons c m ih =>
    obtain ⟨a, v⟩ := c
    by_cases hx : x = a
    · subst hx
      by_cases hy : y = x
      · subst hy; simp [memSet, memGet]
      · simp [memSet, memGet, hy]
    · by_cases hlt : x < a
      · by_cases hy : y = x
        · subst hy; simp [memSet, memGet, hx, hlt]
        · by_cases hya : y < x
          · have h1 : y ≠ a := by omega
            have h2 : y < a := by omega
            simp [memSet, memGet, hx, hlt, hy, hya, h1, h2]
          · simp [memSet, memGet, hx, hlt, hy, hya]
      · by_cases hya : y = a
        · subst hya
          have : y ≠ x := fun e => hx e.symm
          simp [memSet, memGet, hx, hlt, this]
        · by_cases hylt : y < a
          · have h1 : y ≠ x := by omega
            simp [memSet, memGet, hx, hlt, hya, hylt, h1]
          · simp [memSet, memGet, hx, hlt, hya, hylt, ih]

/-- A read after an erasure of a sorted list. -/
theorem memGet_memErase (m : Memory) (x y : Nat) (h : memSorted m = true) :
    memGet (memErase m x) y = if y = x then none else memGet m y := by
  induction m with
  | nil => simp [memErase, memGet]
  | cons c m ih =>
    obtain ⟨a, v⟩ := c
    obtain ⟨ha, hm⟩ := (memSorted_cons a v m).mp h
    by_cases hx : x = a
    · subst hx
      by_cases hy : y = x
      · subst hy; simp [memErase, memGet_above ha]
      · by_cases hlt : y < x
        · have : memAbove y m := fun c hc => Nat.lt_trans hlt (ha c hc)
          simp [memErase, memGet, hy, hlt, memGet_above this]
        · simp [memErase, memGet, hy, hlt]
    · by_cases hlt : x < a
      · by_cases hy : y = x
        · subst hy; simp [memErase, memGet, hx, hlt]
        · simp [memErase, hx, hlt, hy]
      · by_cases hya : y = a
        · subst hya
          have : y ≠ x := fun e => hx e.symm
          simp [memErase, memGet, hx, hlt, this]
        · by_cases hylt : y < a
          · have h1 : y ≠ x := by omega
            simp [memErase, memGet, hx, hlt, hya, hylt, h1]
          · simp [memErase, memGet, hx, hlt, hya, hylt, ih hm]

/-! ## Entries -/

theorem mem_memSet {m : Memory} {x : Nat} {w : Byte} {c : Host.Cell} (h : c ∈ memSet m x w) : c = (x, w) ∨ c ∈ m := by
  induction m with
  | nil => simp [memSet] at h; exact Or.inl h
  | cons d m ih =>
    obtain ⟨a, v⟩ := d
    unfold memSet at h
    split at h
    · rcases List.mem_cons.mp h with rfl | h
      · exact Or.inl rfl
      · exact Or.inr (by simp [h])
    · split at h
      · rcases List.mem_cons.mp h with rfl | h
        · exact Or.inl rfl
        · exact Or.inr h
      · rcases List.mem_cons.mp h with rfl | h
        · exact Or.inr (by simp)
        · exact (ih h).imp id (fun h => by simp [h])

theorem mem_memErase {m : Memory} {x : Nat} {c : Host.Cell} (h : c ∈ memErase m x) : c ∈ m := by
  induction m with
  | nil => exact h
  | cons d m ih =>
    obtain ⟨a, v⟩ := d
    unfold memErase at h
    split at h
    · simp [h]
    · split at h
      · exact h
      · rcases List.mem_cons.mp h with rfl | h
        · simp
        · simp [ih h]

/-! ## The canonical form is kept -/

/-- The canonical form, part by part. -/
theorem wf_iff (rest : Option Byte) (m : Memory) :
    Memory.wf rest m = true ↔ memSorted m = true ∧ ∀ c ∈ m, rest ≠ some c.2 := by
  simp [Memory.wf]

/-- A write of a byte that an unlisted address does not read as. -/
theorem memSet_wf {rest : Option Byte} {m : Memory} (x : Nat) (w : Byte) (hw : rest ≠ some w)
    (h : Memory.wf rest m = true) : Memory.wf rest (memSet m x w) = true := by
  obtain ⟨hs, hm⟩ := (wf_iff rest m).mp h
  refine (wf_iff rest _).mpr ⟨memSet_sorted x w hs, fun c hc => ?_⟩
  rcases mem_memSet hc with rfl | hc
  · exact hw
  · exact hm c hc

theorem memErase_wf {rest : Option Byte} {m : Memory} (x : Nat) (h : Memory.wf rest m = true) :
    Memory.wf rest (memErase m x) = true := by
  obtain ⟨hs, hm⟩ := (wf_iff rest m).mp h
  exact (wf_iff rest _).mpr ⟨memErase_sorted x hs, fun c hc => hm c (mem_memErase hc)⟩

/-- Writing a flash byte keeps flash canonical. -/
theorem flashPut_wf {m : Memory} (b : Nat) (v : Byte) (h : Memory.wf (some flashErased) m = true) :
    Memory.wf (some flashErased) (flashPut m b v) = true := by
  unfold flashPut
  split
  · exact memErase_wf b h
  · next hv => exact memSet_wf b v (by simpa using fun e => hv e.symm) h

/-- A flash byte after a write, on a sorted image. -/
theorem memGet_flashPut (m : Memory) (b c : Nat) (v : Byte) (h : memSorted m = true) :
    (memGet (flashPut m b v) c).getD flashErased = if c = b then v else (memGet m c).getD flashErased := by
  unfold flashPut
  split
  · next hv => rw [memGet_memErase m b c h]; split <;> simp [hv]
  · rw [memGet_memSet]; split <;> simp

/-- Writing an SRAM byte keeps SRAM canonical. -/
theorem setSram_wf (s : State) (a : Nat) (v : Byte) (h : Memory.wf none s.sram = true) :
    Memory.wf none (s.setSram a v).sram = true := memSet_wf a v (by simp) h

/-- An SRAM byte after a write. -/
@[simp] theorem sramAt_setSram (s : State) (a b : Nat) (v : Byte) :
    (s.setSram a v).sramAt b = if b = a then v else s.sramAt b := by
  unfold State.sramAt
  simp only [setSram_sram, memGet_memSet]
  split <;> simp

/-- Loading image bytes keeps flash canonical. -/
theorem loadBytes_wf (image : List Byte) (b : Nat) (m : Memory) (h : Memory.wf (some flashErased) m = true) :
    Memory.wf (some flashErased) (loadBytes image b m) = true := by
  induction image generalizing b m with
  | nil => exact h
  | cons v vs ih => exact ih (b + 1) _ (flashPut_wf b v h)

/-- Reset memory is canonical. -/
theorem reset_memWf : State.reset.memWf = true := by decide

end Sys2Proof.Machine
end

