-- ==== Sys2Proof/Laws/Ops.lean ====
section
/-! SUPPORT. What the shared operations do, one lemma for each: the owner of an I/O address, an access to internal SRAM, what
an access that meets no calling block can change, the stack, fetching, and the pointers. -/

namespace Sys2Proof.Machine

open Sys2Proof

variable {s : State}

/-! ## Regions and owners -/

/-- Below 0x1000 the region is I/O (R81). -/
theorem regionOf_io {p : Params} {a : Nat} (h : a < 0x1000) : regionOf p a = .io := by
  simp [regionOf, memIoSize, h]

/-- Internal SRAM, when the EEPROM range does not reach it (R7, R81). -/
theorem regionOf_sram {p : Params} {a : Nat} (he : p.eepromSize ≤ 0x1000) (h : inSram p a = true) : regionOf p a = .sram := by
  have h2 := h
  simp only [inSram, Bool.and_eq_true, decide_eq_true_eq] at h2
  simp only [memSramStart] at h2
  unfold regionOf
  rw [if_neg (by simp [memIoSize]; omega), if_neg (by simp [memEepromStart]; omega), if_pos h]

/-- The CPU block owns 0x30 to 0x3F in every registry (R47, R90). -/
theorem ioOwner_cpu (p : Params) {a : Nat} (h1 : 0x30 ≤ a) (h2 : a < 0x40) : ioOwner p a = some (0, Params.cpuBlock) := by
  simp [ioOwner, Params.registry, ioOwnerFrom, Params.cpuBlock]
  omega

/-- Reading a register of the CPU block. -/
theorem memRead_cpu (a : DataAddr) (h1 : 0x30 ≤ a.toNat) (h2 : a.toNat < 0x40) :
    memRead a s = .ok (cpuRead (a.toNat - 0x30) s) := by
  simp only [memRead, regionOf_io (show a.toNat < 0x1000 by omega), ioRead, ioOwner_cpu s.params h1 h2]
  rfl

/-- Writing a register of the CPU block. -/
theorem memWrite_cpu (a : DataAddr) (v : Byte) (h1 : 0x30 ≤ a.toNat) (h2 : a.toNat < 0x40) :
    memWrite a v s = .ok (cpuWrite (a.toNat - 0x30) v s) := by
  simp only [memWrite, regionOf_io (show a.toNat < 0x1000 by omega), ioWrite, ioOwner_cpu s.params h1 h2]
  rfl

/-! ## SRAM -/

theorem memRead_sram {a : DataAddr} (h : regionOf s.params a.toNat = .sram) : memRead a s = .ok (s.sramAt a.toNat, s) := by
  simp [memRead, h]

theorem memWrite_sram {a : DataAddr} {v : Byte} (h : regionOf s.params a.toNat = .sram) :
    memWrite a v s = .ok (s.setSram a.toNat v) := by
  simp [memWrite, h]

/-! ## Accesses that meet no calling block -/

theorem hookReply_quiet {n : Nat} {b : BlockDecl} {r : HookReply} (h : b.callsCore = false) :
    hookReply n b r s = .ok (s.setExt n r.data) := by
  simp [hookReply, h]

theorem quietIo_external {p : Params} {a n : Nat} {b : BlockDecl} (h : quietIo p a = true) (ho : ioOwner p a = some (n, b))
    (hk : b.kind = .external) : b.callsCore = false := by
  simpa [quietIo, ho, hk] using h

theorem ioRead_quiet {a : Nat} (h : quietIo s.params a = true) :
    ∃ v t, ioRead a s = .ok (v, t) ∧ t = { s with log := t.log, draws := t.draws, ext := t.ext } := by
  unfold ioRead
  split
  · exact ⟨_, _, rfl, rfl⟩
  · next n b ho =>
    unfold blockGetIo
    split
    · unfold cpuRead
      split <;> exact ⟨_, _, rfl, rfl⟩
    · unfold clkRead
      split <;> exact ⟨_, _, rfl, rfl⟩
    · exact ⟨_, _, rfl, rfl⟩
    · exact ⟨_, _, rfl, rfl⟩
    · next hk =>
      simp only [hookReply_quiet (quietIo_external h ho hk)]
      exact ⟨_, _, rfl, rfl⟩

/-! ## The scheduler's calls -/

/-- What a `schedule` that is not refused does (R464, R455). -/
theorem schedule_ok {d : Domain} {cb : Callback} {n : Nat} {pri : Int} {call : ServiceCall} {h : Nat} {t : State}
    (hs : schedule d cb n pri call s = .ok (h, t)) :
    n ≠ 0 ∧ s.sched.running = none ∧ h = s.sched.nextHandle ∧ ∃ l, t = { s with
      log := l
      sched := { s.sched with
        heap := s.sched.heap ++ [⟨h, d, cb, pri,
          (s.sched.currentSysTick / scaleOf s.clk.psctrl d + n) * scaleOf s.clk.psctrl d, scaleOf s.clk.psctrl d,
          s.sched.nextSeq⟩]
        nextHandle := s.sched.nextHandle + 1, nextSeq := s.sched.nextSeq + 1 } } := by
  unfold schedule at hs
  split at hs
  · simp at hs
  · next hn =>
    split at hs
    · simp at hs
    · next hr =>
      injection hs with hs
      injection hs with h1 h2
      subst h1 h2
      refine ⟨hn, by simpa using hr, ?_⟩
      by_cases hd : d = .asy
      · rw [if_pos hd]; exact ⟨rfl, _, rfl⟩
      · rw [if_neg hd]; exact ⟨rfl, _, rfl⟩

/-- What an `unschedule` that is not refused does (R465, R468). -/
theorem unschedule_ok {h : Nat} {t : State} (hs : unschedule h s = .ok t) :
    s.sched.running = none ∧ (t = s.record (.unscheduleUnknown h) ∨
      t = s.setSched { s.sched with heap := s.sched.heap.filter (!·.named h) }) := by
  unfold unschedule at hs
  split at hs
  · simp at hs
  · next hr =>
    refine ⟨by simpa using hr, ?_⟩
    split at hs
    · injection hs with hs; exact .inr hs.symm
    · injection hs with hs; exact .inl hs.symm

/-! ## Addresses outside I/O -/

/-- The region of an address at or above 0x1000 is not I/O. -/
theorem regionOf_ne_io {p : Params} {a : Nat} (h : 0x1000 ≤ a) : regionOf p a ≠ .io := by
  unfold regionOf
  rw [if_neg (by simp [memIoSize]; omega)]
  split
  · simp
  · split
    · simp
    · split
      · simp
      · split <;> simp

/-- A quiet read answers, and changes only the log, the count of free values and external blocks. -/
theorem memRead_quiet {a : DataAddr} (h : quietAt s.params a = true) :
    ∃ v t, memRead a s = .ok (v, t) ∧ t = { s with log := t.log, draws := t.draws, ext := t.ext } := by
  unfold memRead
  simp only
  split
  · next hr =>
    by_cases hl : a.toNat < 0x1000
    · exact ioRead_quiet (by simpa [quietAt, memIoSize, hl] using h)
    · exact absurd hr (regionOf_ne_io (by omega))
  · exact ⟨_, _, rfl, rfl⟩
  · exact ⟨_, _, rfl, rfl⟩
  · unfold emuRead
    split <;> exact ⟨_, _, rfl, rfl⟩
  · exact ⟨_, _, rfl, rfl⟩
  · exact ⟨_, _, rfl, rfl⟩

/-- An I/O write leaves the registers, pc, the debt, both memories and the parameters alone. -/
theorem ioWrite_quiet {a : Nat} (v : Byte) (h : quietIo s.params a = true) :
    ∃ t, ioWrite a v s = .ok t ∧ t.regs = s.regs ∧ t.pc = s.pc ∧ t.flash = s.flash ∧ t.sram = s.sram ∧
      t.params = s.params ∧ t.breaked = s.breaked ∧ t.interruptWait = s.interruptWait ∧
      t.instructionCycles = s.instructionCycles := by
  unfold ioWrite
  split
  · exact ⟨_, rfl, rfl, rfl, rfl, rfl, rfl, rfl, rfl, rfl⟩
  · next n b ho =>
    unfold blockSetIo
    split
    · unfold cpuWrite
      split <;> exact ⟨_, rfl, rfl, rfl, rfl, rfl, rfl, rfl, rfl, rfl⟩
    · unfold clkWrite writePsctrl
      split
      · split <;> exact ⟨_, rfl, rfl, rfl, rfl, rfl, rfl, rfl, rfl, rfl⟩
      · split
        · split <;> exact ⟨_, rfl, rfl, rfl, rfl, rfl, rfl, rfl, rfl, rfl⟩
        · exact ⟨_, rfl, rfl, rfl, rfl, rfl, rfl, rfl, rfl, rfl⟩
      · split <;> exact ⟨_, rfl, rfl, rfl, rfl, rfl, rfl, rfl, rfl, rfl⟩
      · exact ⟨_, rfl, rfl, rfl, rfl, rfl, rfl, rfl, rfl, rfl⟩
      · exact ⟨_, rfl, rfl, rfl, rfl, rfl, rfl, rfl, rfl, rfl⟩
    · unfold pmicWrite
      split <;> exact ⟨_, rfl, rfl, rfl, rfl, rfl, rfl, rfl, rfl, rfl⟩
    · exact ⟨_, rfl, rfl, rfl, rfl, rfl, rfl, rfl, rfl, rfl⟩
    · next hk =>
      rw [hookReply_quiet (quietIo_external h ho hk)]
      exact ⟨_, rfl, rfl, rfl, rfl, rfl, rfl, rfl, rfl, rfl⟩

/-- A write at or above 0x1000 answers, and changes at most the one SRAM byte and the log. -/
theorem memWrite_high {a : DataAddr} (v : Byte) (h : 0x1000 ≤ a.toNat) :
    ∃ t, memWrite a v s = .ok t ∧ t = { s with sram := t.sram, log := t.log } ∧
      ∀ b, b ≠ a.toNat → t.sramAt b = s.sramAt b := by
  unfold memWrite
  simp only
  split
  · next hr => exact absurd hr (regionOf_ne_io h)
  · exact ⟨_, rfl, rfl, fun _ _ => rfl⟩
  · exact ⟨_, rfl, rfl, fun b hb => by simp [hb]⟩
  · exact ⟨_, rfl, rfl, fun _ _ => rfl⟩
  · exact ⟨_, rfl, rfl, fun _ _ => rfl⟩
  · exact ⟨_, rfl, rfl, fun _ _ => rfl⟩

/-- A quiet write answers, leaves the registers, pc, the debt, flash and the parameters alone, and every SRAM byte but the one
addressed. -/
theorem memWrite_quiet {a : DataAddr} (v : Byte) (h : quietAt s.params a = true) :
    ∃ t, memWrite a v s = .ok t ∧ t.regs = s.regs ∧ t.pc = s.pc ∧ t.flash = s.flash ∧ t.params = s.params ∧
      t.breaked = s.breaked ∧ t.interruptWait = s.interruptWait ∧ t.instructionCycles = s.instructionCycles ∧
      (a.toNat < 0x1000 → t.sram = s.sram) ∧ ∀ b, b ≠ a.toNat → t.sramAt b = s.sramAt b := by
  by_cases ha : a.toNat < 0x1000
  · have hq : quietIo s.params a.toNat = true := by simpa [quietAt, memIoSize, ha] using h
    obtain ⟨t, ht, hr, hp, hf, hm, hpar, hb, hw, hi⟩ := ioWrite_quiet v hq
    refine ⟨t, by simp [memWrite, regionOf_io ha, ht], hr, hp, hf, hpar, hb, hw, hi, fun _ => hm, fun b _ => ?_⟩
    simp [State.sramAt, hm]
  · obtain ⟨t, ht, he, hs⟩ := memWrite_high (s := s) v (show 0x1000 ≤ a.toNat by omega)
    exact ⟨t, ht, by rw [he], by rw [he], by rw [he], by rw [he], by rw [he], by rw [he], by rw [he], fun h => absurd h ha, hs⟩

/-! ## The stack -/

theorem dataAddr_toNat (a : Word) : (dataAddr a).toNat = a.toNat := by simp [dataAddr]; omega

/-- A push inside SRAM (R95). -/
theorem push8_ok {v : Byte} (he : s.params.eepromSize ≤ 0x1000) (h : inSram s.params s.sp.toNat = true) :
    push8 v s = .ok ((s.setSram s.sp.toNat v).setSp (s.sp - 1)) := by
  have hr : regionOf s.params (dataAddr s.sp).toNat = .sram := by rw [dataAddr_toNat]; exact regionOf_sram he h
  rw [push8, if_pos h, memWrite_sram hr]
  simp [Except.map, dataAddr_toNat]

/-- A push outside SRAM (R95). -/
theorem push8_fault {v : Byte} (h : inSram s.params s.sp.toNat = false) :
    push8 v s = .error (raise (.stackOutsideSram s.sp.toNat) s) := by
  simp [push8, h]

/-- A pop inside SRAM (R95). -/
theorem pop8_ok (he : s.params.eepromSize ≤ 0x1000) (h : inSram s.params (s.sp + 1).toNat = true) :
    pop8 s = .ok (s.sramAt (s.sp + 1).toNat, s.setSp (s.sp + 1)) := by
  have hr : regionOf (s.setSp (s.sp + 1)).params (dataAddr (s.sp + 1)).toNat = .sram := by
    rw [dataAddr_toNat]; exact regionOf_sram he h
  unfold pop8
  simp only [setSp_params, setSp_sp, h, if_true]
  have := memRead_sram hr
  rw [dataAddr_toNat] at this
  exact this

/-- A pop outside SRAM (R95). -/
theorem pop8_fault (h : inSram s.params (s.sp + 1).toNat = false) :
    pop8 s = .error (raise (.stackOutsideSram (s.sp + 1).toNat) (s.setSp (s.sp + 1))) := by
  unfold pop8
  simp only [setSp_params, setSp_sp, h]
  rfl

/-! ## Fetching -/

theorem fetchWord_ok {w : Int} (h0 : 0 ≤ w) (h1 : w < s.params.flashWords) : fetchWord w s = .ok (s.flashWord w.toNat) := by
  simp [fetchWord, h0, h1]

theorem fetchWord_fault {w : Int} (h : w < 0 ∨ (s.params.flashWords : Int) ≤ w) :
    fetchWord w s = .error (raise (.fetchOutOfRange w) s) := by
  unfold fetchWord
  rw [if_neg (by omega)]

/-! ## Pairs and pointers -/

theorem pairOf_toNat (h l : Byte) : (pairOf h l).toNat = h.toNat * 256 + l.toNat := by
  rw [pairOf, BitVec.toNat_append, ← Nat.shiftLeft_add_eq_or_of_lt l.isLt]
  omega

/-- A pair's halves (R13). -/
theorem pairOf_bytes (w : Word) : pairOf (highByte w) (lowByte w) = w := by
  apply BitVec.eq_of_toNat_eq
  rw [pairOf_toNat]
  simp only [highByte, lowByte, BitVec.extractLsb'_toNat]
  omega

/-- The pair read back after a pair was written (R13). -/
theorem pair_setPair (r : Reg) (v : Word) : (s.setPair r v).pair r = v := by
  have h : r + 1 ≠ r := by simp
  simp [State.pair, State.setPair, h, pairOf_bytes]

end Sys2Proof.Machine
end

