-- ==== Sys2Proof/Laws/PerInstr.lean ====
section
/-! SUPPORT. The per-instruction family `Length`: how many words an instruction has, and that its first word says so (30_encoding.md
R120). Before it, which bits of a word each format takes from its base (R123 to R140). -/

namespace Sys2Proof

/-! ## Bits above a field -/

/-- A field placed below bit `k` does not reach it. -/
theorem getLsbD_or_place {w : Word} {n lo m k : Nat} (hn : n < 2 ^ m) (hk : lo + m ≤ k) :
    (w ||| place n lo).getLsbD k = w.getLsbD k := by
  have h : (n <<< lo).testBit k = false := by
    apply Nat.testBit_lt_two_pow
    calc n <<< lo = n * 2 ^ lo := Nat.shiftLeft_eq n lo
      _ < 2 ^ m * 2 ^ lo := Nat.mul_lt_mul_of_pos_right hn (Nat.two_pow_pos lo)
      _ = 2 ^ (lo + m) := by rw [Nat.pow_add, Nat.mul_comm]
      _ ≤ 2 ^ k := Nat.pow_le_pow_right (by decide) hk
  simp [place, BitVec.getLsbD_or, BitVec.getLsbD_ofNat, h]

/-- A field placed above bit `k` does not reach it. -/
theorem getLsbD_or_place_above {w : Word} {n lo k : Nat} (hk : k < lo) :
    (w ||| place n lo).getLsbD k = w.getLsbD k := by
  have h : (n <<< lo).testBit k = false := by simp [Nat.testBit_shiftLeft]; omega
  simp [place, BitVec.getLsbD_or, BitVec.getLsbD_ofNat, h]

theorem encF1_bit (base : Word) (d r : Reg) {k : Nat} (hk : 10 ≤ k) : (encF1 base d r).getLsbD k = base.getLsbD k := by
  have h1 := d.isLt
  have h2 := r.isLt
  unfold encF1
  rw [getLsbD_or_place (m := 4) (by omega) (by omega), getLsbD_or_place (m := 1) (by omega) (by omega),
    getLsbD_or_place (m := 5) (by omega) (by omega)]

theorem encF2_bit (base : Word) (d r : Reg) {k : Nat} (hk : 8 ≤ k) : (encF2 base d r).getLsbD k = base.getLsbD k := by
  have h1 := d.isLt
  have h2 := r.isLt
  unfold encF2
  rw [getLsbD_or_place (m := 4) (by omega) (by omega), getLsbD_or_place (m := 4) (by omega) (by omega)]

theorem encF3_bit (base : Word) (d r : Reg) {k : Nat} (hk : 8 ≤ k) : (encF3 base d r).getLsbD k = base.getLsbD k := by
  have h1 := d.isLt
  have h2 := r.isLt
  unfold encF3
  rw [getLsbD_or_place (m := 4) (by omega) (by omega), getLsbD_or_place (m := 4) (by omega) (by omega)]

theorem encF4_bit (base : Word) (d r : Reg) {k : Nat} (hk : 8 ≤ k) : (encF4 base d r).getLsbD k = base.getLsbD k :=
  encF3_bit base d r hk

theorem encF5_bit (base : Word) (d : Reg) (c : Byte) {k : Nat} (hk : 12 ≤ k) :
    (encF5 base d c).getLsbD k = base.getLsbD k := by
  have h1 := d.isLt
  have h2 := c.isLt
  unfold encF5
  rw [getLsbD_or_place (m := 4) (by omega) (by omega), getLsbD_or_place (m := 4) (by omega) (by omega),
    getLsbD_or_place (m := 4) (by omega) (by omega)]

/-- F6 leaves bit 12 alone. -/
theorem encF6_bit12 (base : Word) (d : Reg) (q : BitVec 6) : (encF6 base d q).getLsbD 12 = base.getLsbD 12 := by
  have h1 := d.isLt
  unfold encF6
  rw [getLsbD_or_place (m := 5) (by omega) (by omega), getLsbD_or_place (m := 3) (by omega) (by omega),
    getLsbD_or_place (m := 2) (by omega) (by omega), getLsbD_or_place_above (by decide)]

theorem encF13_bit (base : Word) (d : Reg) (c : BitVec 6) {k : Nat} (hk : 8 ≤ k) :
    (encF13 base d c).getLsbD k = base.getLsbD k := by
  have h1 := d.isLt
  have h2 := c.isLt
  unfold encF13
  rw [getLsbD_or_place (m := 4) (by omega) (by omega), getLsbD_or_place (m := 2) (by omega) (by omega),
    getLsbD_or_place (m := 2) (by omega) (by omega)]

theorem encF14_bit (base : Word) (a : BitVec 5) (b : Bit) {k : Nat} (hk : 8 ≤ k) :
    (encF14 base a b).getLsbD k = base.getLsbD k := by
  have h1 := a.isLt
  have h2 := b.isLt
  unfold encF14
  rw [getLsbD_or_place (m := 3) (by omega) (by omega), getLsbD_or_place (m := 5) (by omega) (by omega)]

theorem encF15_bit (base : Word) (d : Reg) (a : BitVec 6) {k : Nat} (hk : 11 ≤ k) :
    (encF15 base d a).getLsbD k = base.getLsbD k := by
  have h1 := d.isLt
  have h2 := a.isLt
  unfold encF15
  rw [getLsbD_or_place (m := 4) (by omega) (by omega), getLsbD_or_place (m := 5) (by omega) (by omega),
    getLsbD_or_place (m := 2) (by omega) (by omega)]

theorem encF16_bit (base : Word) (c : BitVec 12) {k : Nat} (hk : 12 ≤ k) : (encF16 base c).getLsbD k = base.getLsbD k := by
  have h1 := c.isLt
  unfold encF16
  rw [getLsbD_or_place (m := 12) (by omega) (by omega)]

theorem encF17_bit (base : Word) (b : Bit) (c : BitVec 7) {k : Nat} (hk : 10 ≤ k) :
    (encF17 base b c).getLsbD k = base.getLsbD k := by
  have h1 := b.isLt
  have h2 := c.isLt
  unfold encF17
  rw [getLsbD_or_place (m := 3) (by omega) (by omega), getLsbD_or_place (m := 7) (by omega) (by omega)]

theorem encF18_bit (base : Word) (r : Reg) (b : Bit) {k : Nat} (hk : 9 ≤ k) :
    (encF18 base r b).getLsbD k = base.getLsbD k := by
  have h1 := r.isLt
  have h2 := b.isLt
  unfold encF18
  rw [getLsbD_or_place (m := 3) (by omega) (by omega), getLsbD_or_place (m := 5) (by omega) (by omega)]

/-! ## Two-word forms (R120) -/

/-- The bits every first word of a two-word form has (R120). -/
theorem isLong_bits {w : Word} (h : isLong w = true) :
    w.getLsbD 15 = true ∧ w.getLsbD 14 = false ∧ w.getLsbD 13 = false ∧ w.getLsbD 12 = true ∧ w.getLsbD 11 = false ∧
      (w.getLsbD 10 && w.getLsbD 9) = false := by
  have two : w &&& 0xFE0C = 0x940C ∨ w &&& 0xFC0F = 0x9000 := by simpa [isLong] using h
  have bit (m v : Word) (e : w &&& m = v) (k : Nat) : (w.getLsbD k && m.getLsbD k) = v.getLsbD k := by
    rw [← BitVec.getLsbD_and, e]
  rcases two with e | e
  · have b := bit _ _ e
    have b15 := b 15; have b14 := b 14; have b13 := b 13; have b12 := b 12; have b11 := b 11; have b9 := b 9
    simp_all
  · have b := bit _ _ e
    have b15 := b 15; have b14 := b 14; have b13 := b 13; have b12 := b 12; have b11 := b 11; have b10 := b 10
    simp_all

/-- A first word without one of those bits is a one-word form. -/
theorem isLong_eq_false {w : Word} (h : w.getLsbD 15 = false ∨ w.getLsbD 14 = true ∨ w.getLsbD 13 = true ∨
    w.getLsbD 12 = false ∨ w.getLsbD 11 = true ∨ (w.getLsbD 10 && w.getLsbD 9) = true) : isLong w = false := by
  cases hl : isLong w with
  | false => rfl
  | true =>
    obtain ⟨h1, h2, h3, h4, h5, h6⟩ := isLong_bits hl
    simp_all

/-- The first word of JMP and CALL (R134). -/
theorem isLong_encF12 (c : Bool) (k : BitVec 22) : isLong (encF12 (if c then 0x940E else 0x940C) k) = true := by
  have h1 : k.toNat / 0x20000 < 32 := by have := k.isLt; omega
  have h2 : k.toNat / 0x10000 % 2 < 2 := Nat.mod_lt _ (by decide)
  have all : ∀ (c : Bool) (a : Fin 32) (b : Fin 2),
      isLong ((if c then 0x940E else 0x940C : Word) ||| place a.val 4 ||| place b.val 0) = true := by decide
  exact all c ⟨_, h1⟩ ⟨_, h2⟩

/-! ## The family -/

namespace Laws.Length

/-- A well-formed instruction has two words if its first word is that of a two-word form (R120), else one. -/
def Statement (i : Instr) : Prop := i.wellFormed = true → (encode i).length = if isLong (firstWord i) then 2 else 1

/-- An instruction of one word, whose first word is no two-word form. -/
theorem of_short {i : Instr} (h : (encode i).length = 1) (hl : isLong (firstWord i) = false) : Statement i := by
  intro _
  rw [h, hl]
  rfl

/-- An instruction of two words. -/
theorem of_long {i : Instr} (h : (encode i).length = 2) (hl : isLong (firstWord i) = true) : Statement i := by
  intro _
  rw [h, hl]
  rfl

theorem nop : Statement .nop := of_short rfl (by decide)
theorem movw (d r : Reg) : Statement (.movw d r) :=
  of_short rfl (isLong_eq_false (.inl (encF2_bit 0x0100 d r (by decide))))
theorem muls (d r : Reg) : Statement (.muls d r) :=
  of_short rfl (isLong_eq_false (.inl (encF3_bit 0x0200 d r (by decide))))
theorem mulsu (d r : Reg) : Statement (.mulsu d r) :=
  of_short rfl (isLong_eq_false (.inl (encF4_bit 0x0300 d r (by decide))))
theorem fmul (d r : Reg) : Statement (.fmul d r) :=
  of_short rfl (isLong_eq_false (.inl (encF4_bit 0x0308 d r (by decide))))
theorem fmuls (d r : Reg) : Statement (.fmuls d r) :=
  of_short rfl (isLong_eq_false (.inl (encF4_bit 0x0380 d r (by decide))))
theorem fmulsu (d r : Reg) : Statement (.fmulsu d r) :=
  of_short rfl (isLong_eq_false (.inl (encF4_bit 0x0388 d r (by decide))))
theorem cpc (d r : Reg) : Statement (.cpc d r) :=
  of_short rfl (isLong_eq_false (.inl (encF1_bit 0x0400 d r (by decide))))
theorem sbc (d r : Reg) : Statement (.sbc d r) :=
  of_short rfl (isLong_eq_false (.inl (encF1_bit 0x0800 d r (by decide))))
theorem add (d r : Reg) : Statement (.add d r) :=
  of_short rfl (isLong_eq_false (.inl (encF1_bit 0x0C00 d r (by decide))))
theorem cpse (d r : Reg) : Statement (.cpse d r) :=
  of_short rfl (isLong_eq_false (.inl (encF1_bit 0x1000 d r (by decide))))
theorem cp (d r : Reg) : Statement (.cp d r) := of_short rfl (isLong_eq_false (.inl (encF1_bit 0x1400 d r (by decide))))
theorem sub (d r : Reg) : Statement (.sub d r) :=
  of_short rfl (isLong_eq_false (.inl (encF1_bit 0x1800 d r (by decide))))
theorem adc (d r : Reg) : Statement (.adc d r) :=
  of_short rfl (isLong_eq_false (.inl (encF1_bit 0x1C00 d r (by decide))))
theorem and (d r : Reg) : Statement (.and d r) :=
  of_short rfl (isLong_eq_false (.inl (encF1_bit 0x2000 d r (by decide))))
theorem eor (d r : Reg) : Statement (.eor d r) :=
  of_short rfl (isLong_eq_false (.inl (encF1_bit 0x2400 d r (by decide))))
theorem or (d r : Reg) : Statement (.or d r) := of_short rfl (isLong_eq_false (.inl (encF1_bit 0x2800 d r (by decide))))
theorem mov (d r : Reg) : Statement (.mov d r) :=
  of_short rfl (isLong_eq_false (.inl (encF1_bit 0x2C00 d r (by decide))))
theorem cpi (d : Reg) (k : Byte) : Statement (.cpi d k) :=
  of_short rfl (isLong_eq_false (.inl (encF5_bit 0x3000 d k (by decide))))
theorem sbci (d : Reg) (k : Byte) : Statement (.sbci d k) :=
  of_short rfl (isLong_eq_false (.inl (encF5_bit 0x4000 d k (by decide))))
theorem subi (d : Reg) (k : Byte) : Statement (.subi d k) :=
  of_short rfl (isLong_eq_false (.inl (encF5_bit 0x5000 d k (by decide))))
theorem ori (d : Reg) (k : Byte) : Statement (.ori d k) :=
  of_short rfl (isLong_eq_false (.inl (encF5_bit 0x6000 d k (by decide))))
theorem andi (d : Reg) (k : Byte) : Statement (.andi d k) :=
  of_short rfl (isLong_eq_false (.inl (encF5_bit 0x7000 d k (by decide))))
theorem ldZ (d : Reg) : Statement (.ldZ d) :=
  of_short rfl (isLong_eq_false (.inr (.inr (.inr (.inl (encF6_bit12 0x8000 d 0))))))
theorem ldY (d : Reg) : Statement (.ldY d) :=
  of_short rfl (isLong_eq_false (.inr (.inr (.inr (.inl (encF6_bit12 0x8008 d 0))))))
theorem stZ (r : Reg) : Statement (.stZ r) :=
  of_short rfl (isLong_eq_false (.inr (.inr (.inr (.inl (encF6_bit12 0x8200 r 0))))))
theorem stY (r : Reg) : Statement (.stY r) :=
  of_short rfl (isLong_eq_false (.inr (.inr (.inr (.inl (encF6_bit12 0x8208 r 0))))))
theorem lddZ (d : Reg) (q : BitVec 6) : Statement (.lddZ d q) :=
  of_short rfl (isLong_eq_false (.inr (.inr (.inr (.inl (encF6_bit12 0x8000 d q))))))
theorem lddY (d : Reg) (q : BitVec 6) : Statement (.lddY d q) :=
  of_short rfl (isLong_eq_false (.inr (.inr (.inr (.inl (encF6_bit12 0x8008 d q))))))
theorem stdZ (q : BitVec 6) (r : Reg) : Statement (.stdZ q r) :=
  of_short rfl (isLong_eq_false (.inr (.inr (.inr (.inl (encF6_bit12 0x8200 r q))))))
theorem stdY (q : BitVec 6) (r : Reg) : Statement (.stdY q r) :=
  of_short rfl (isLong_eq_false (.inr (.inr (.inr (.inl (encF6_bit12 0x8208 r q))))))
theorem lds (d : Reg) (k : Word) : Statement (.lds d k) :=
  of_long rfl ((by decide : ∀ x : Reg, isLong (encF7 0x9000 x) = true) d)
theorem ldZInc (d : Reg) : Statement (.ldZInc d) :=
  of_short rfl ((by decide : ∀ x : Reg, isLong (encF7 0x9001 x) = false) d)
theorem ldZDec (d : Reg) : Statement (.ldZDec d) :=
  of_short rfl ((by decide : ∀ x : Reg, isLong (encF7 0x9002 x) = false) d)
theorem lpmZ (d : Reg) : Statement (.lpmZ d) :=
  of_short rfl ((by decide : ∀ x : Reg, isLong (encF7 0x9004 x) = false) d)
theorem lpmZInc (d : Reg) : Statement (.lpmZInc d) :=
  of_short rfl ((by decide : ∀ x : Reg, isLong (encF7 0x9005 x) = false) d)
theorem elpmZ (d : Reg) : Statement (.elpmZ d) :=
  of_short rfl ((by decide : ∀ x : Reg, isLong (encF7 0x9006 x) = false) d)
theorem elpmZInc (d : Reg) : Statement (.elpmZInc d) :=
  of_short rfl ((by decide : ∀ x : Reg, isLong (encF7 0x9007 x) = false) d)
theorem ldYInc (d : Reg) : Statement (.ldYInc d) :=
  of_short rfl ((by decide : ∀ x : Reg, isLong (encF7 0x9009 x) = false) d)
theorem ldYDec (d : Reg) : Statement (.ldYDec d) :=
  of_short rfl ((by decide : ∀ x : Reg, isLong (encF7 0x900A x) = false) d)
theorem ldX (d : Reg) : Statement (.ldX d) := of_short rfl ((by decide : ∀ x : Reg, isLong (encF7 0x900C x) = false) d)
theorem ldXInc (d : Reg) : Statement (.ldXInc d) :=
  of_short rfl ((by decide : ∀ x : Reg, isLong (encF7 0x900D x) = false) d)
theorem ldXDec (d : Reg) : Statement (.ldXDec d) :=
  of_short rfl ((by decide : ∀ x : Reg, isLong (encF7 0x900E x) = false) d)
theorem pop (d : Reg) : Statement (.pop d) := of_short rfl ((by decide : ∀ x : Reg, isLong (encF7 0x900F x) = false) d)
theorem sts (k : Word) (r : Reg) : Statement (.sts k r) :=
  of_long rfl ((by decide : ∀ x : Reg, isLong (encF7 0x9200 x) = true) r)
theorem stZInc (r : Reg) : Statement (.stZInc r) :=
  of_short rfl ((by decide : ∀ x : Reg, isLong (encF7 0x9201 x) = false) r)
theorem stZDec (r : Reg) : Statement (.stZDec r) :=
  of_short rfl ((by decide : ∀ x : Reg, isLong (encF7 0x9202 x) = false) r)
theorem xch (d : Reg) : Statement (.xch d) := of_short rfl ((by decide : ∀ x : Reg, isLong (encF7 0x9204 x) = false) d)
theorem las (d : Reg) : Statement (.las d) := of_short rfl ((by decide : ∀ x : Reg, isLong (encF7 0x9205 x) = false) d)
theorem lac (d : Reg) : Statement (.lac d) := of_short rfl ((by decide : ∀ x : Reg, isLong (encF7 0x9206 x) = false) d)
theorem lat (d : Reg) : Statement (.lat d) := of_short rfl ((by decide : ∀ x : Reg, isLong (encF7 0x9207 x) = false) d)
theorem stYInc (r : Reg) : Statement (.stYInc r) :=
  of_short rfl ((by decide : ∀ x : Reg, isLong (encF7 0x9209 x) = false) r)
theorem stYDec (r : Reg) : Statement (.stYDec r) :=
  of_short rfl ((by decide : ∀ x : Reg, isLong (encF7 0x920A x) = false) r)
theorem stX (r : Reg) : Statement (.stX r) := of_short rfl ((by decide : ∀ x : Reg, isLong (encF7 0x920C x) = false) r)
theorem stXInc (r : Reg) : Statement (.stXInc r) :=
  of_short rfl ((by decide : ∀ x : Reg, isLong (encF7 0x920D x) = false) r)
theorem stXDec (r : Reg) : Statement (.stXDec r) :=
  of_short rfl ((by decide : ∀ x : Reg, isLong (encF7 0x920E x) = false) r)
theorem push (r : Reg) : Statement (.push r) :=
  of_short rfl ((by decide : ∀ x : Reg, isLong (encF7 0x920F x) = false) r)
theorem com (d : Reg) : Statement (.com d) := of_short rfl ((by decide : ∀ x : Reg, isLong (encF7 0x9400 x) = false) d)
theorem neg (d : Reg) : Statement (.neg d) := of_short rfl ((by decide : ∀ x : Reg, isLong (encF7 0x9401 x) = false) d)
theorem swap (d : Reg) : Statement (.swap d) :=
  of_short rfl ((by decide : ∀ x : Reg, isLong (encF7 0x9402 x) = false) d)
theorem inc (d : Reg) : Statement (.inc d) := of_short rfl ((by decide : ∀ x : Reg, isLong (encF7 0x9403 x) = false) d)
theorem asr (d : Reg) : Statement (.asr d) := of_short rfl ((by decide : ∀ x : Reg, isLong (encF7 0x9405 x) = false) d)
theorem lsr (d : Reg) : Statement (.lsr d) := of_short rfl ((by decide : ∀ x : Reg, isLong (encF7 0x9406 x) = false) d)
theorem ror (d : Reg) : Statement (.ror d) := of_short rfl ((by decide : ∀ x : Reg, isLong (encF7 0x9407 x) = false) d)
theorem bset (s : Bit) : Statement (.bset s) :=
  of_short rfl ((by decide : ∀ x : Bit, isLong (encF9 0x9408 x) = false) s)
theorem bclr (s : Bit) : Statement (.bclr s) :=
  of_short rfl ((by decide : ∀ x : Bit, isLong (encF9 0x9488 x) = false) s)
theorem ret : Statement .ret := of_short rfl (by decide)
theorem reti : Statement .reti := of_short rfl (by decide)
theorem sleep : Statement .sleep := of_short rfl (by decide)
theorem brk : Statement .brk := of_short rfl (by decide)
theorem wdr : Statement .wdr := of_short rfl (by decide)
theorem lpmR0 : Statement .lpmR0 := of_short rfl (by decide)
theorem elpmR0 : Statement .elpmR0 := of_short rfl (by decide)
theorem spm : Statement .spm := of_short rfl (by decide)
theorem spmZInc : Statement .spmZInc := of_short rfl (by decide)
theorem ijmp : Statement .ijmp := of_short rfl (by decide)
theorem eijmp : Statement .eijmp := of_short rfl (by decide)
theorem icall : Statement .icall := of_short rfl (by decide)
theorem eicall : Statement .eicall := of_short rfl (by decide)
theorem dec (d : Reg) : Statement (.dec d) := of_short rfl ((by decide : ∀ x : Reg, isLong (encF7 0x940A x) = false) d)
theorem des (k : BitVec 4) : Statement (.des k) :=
  of_short rfl ((by decide : ∀ x : BitVec 4, isLong (encF11 0x940B x) = false) k)
theorem jmp (k : BitVec 22) : Statement (.jmp k) := of_long rfl (isLong_encF12 false k)
theorem call (k : BitVec 22) : Statement (.call k) := of_long rfl (isLong_encF12 true k)
theorem adiw (d : Reg) (k : BitVec 6) : Statement (.adiw d k) :=
  of_short rfl (isLong_eq_false (.inr (.inr (.inr (.inr (.inr (by rw [firstWord, encode, List.headD_cons, encF13_bit (k := 10) 0x9600 d k (by decide), encF13_bit (k := 9) 0x9600 d k (by decide)]; rfl)))))))
theorem sbiw (d : Reg) (k : BitVec 6) : Statement (.sbiw d k) :=
  of_short rfl (isLong_eq_false (.inr (.inr (.inr (.inr (.inr (by rw [firstWord, encode, List.headD_cons, encF13_bit (k := 10) 0x9700 d k (by decide), encF13_bit (k := 9) 0x9700 d k (by decide)]; rfl)))))))
theorem cbi (a : BitVec 5) (b : Bit) : Statement (.cbi a b) :=
  of_short rfl (isLong_eq_false (.inr (.inr (.inr (.inr (.inl (encF14_bit 0x9800 a b (by decide))))))))
theorem sbic (a : BitVec 5) (b : Bit) : Statement (.sbic a b) :=
  of_short rfl (isLong_eq_false (.inr (.inr (.inr (.inr (.inl (encF14_bit 0x9900 a b (by decide))))))))
theorem sbi (a : BitVec 5) (b : Bit) : Statement (.sbi a b) :=
  of_short rfl (isLong_eq_false (.inr (.inr (.inr (.inr (.inl (encF14_bit 0x9A00 a b (by decide))))))))
theorem sbis (a : BitVec 5) (b : Bit) : Statement (.sbis a b) :=
  of_short rfl (isLong_eq_false (.inr (.inr (.inr (.inr (.inl (encF14_bit 0x9B00 a b (by decide))))))))
theorem mul (d r : Reg) : Statement (.mul d r) :=
  of_short rfl (isLong_eq_false (.inr (.inr (.inr (.inr (.inl (encF1_bit 0x9C00 d r (by decide))))))))
theorem inp (d : Reg) (a : BitVec 6) : Statement (.inp d a) :=
  of_short rfl (isLong_eq_false (.inr (.inr (.inl (encF15_bit 0xB000 d a (by decide))))))
theorem outp (a : BitVec 6) (r : Reg) : Statement (.outp a r) :=
  of_short rfl (isLong_eq_false (.inr (.inr (.inl (encF15_bit 0xB800 r a (by decide))))))
theorem rjmp (k : BitVec 12) : Statement (.rjmp k) :=
  of_short rfl (isLong_eq_false (.inr (.inl (encF16_bit 0xC000 k (by decide)))))
theorem rcall (k : BitVec 12) : Statement (.rcall k) :=
  of_short rfl (isLong_eq_false (.inr (.inl (encF16_bit 0xD000 k (by decide)))))
theorem ldi (d : Reg) (k : Byte) : Statement (.ldi d k) :=
  of_short rfl (isLong_eq_false (.inr (.inl (encF5_bit 0xE000 d k (by decide)))))
theorem brbs (s : Bit) (k : BitVec 7) : Statement (.brbs s k) :=
  of_short rfl (isLong_eq_false (.inr (.inl (encF17_bit 0xF000 s k (by decide)))))
theorem brbc (s : Bit) (k : BitVec 7) : Statement (.brbc s k) :=
  of_short rfl (isLong_eq_false (.inr (.inl (encF17_bit 0xF400 s k (by decide)))))
theorem bld (d : Reg) (b : Bit) : Statement (.bld d b) :=
  of_short rfl (isLong_eq_false (.inr (.inl (encF18_bit 0xF800 d b (by decide)))))
theorem bst (d : Reg) (b : Bit) : Statement (.bst d b) :=
  of_short rfl (isLong_eq_false (.inr (.inl (encF18_bit 0xFA00 d b (by decide)))))
theorem sbrc (r : Reg) (b : Bit) : Statement (.sbrc r b) :=
  of_short rfl (isLong_eq_false (.inr (.inl (encF18_bit 0xFC00 r b (by decide)))))
theorem sbrs (r : Reg) (b : Bit) : Statement (.sbrs r b) :=
  of_short rfl (isLong_eq_false (.inr (.inl (encF18_bit 0xFE00 r b (by decide)))))

end Laws.Length

end Sys2Proof
end

