-- ==== Sys2Proof/Laws/Stack.lean ====
section
/-! SUPPORT. The stack operations of 20_memory.md R94 and R95, each said once: what pushing and popping a byte or a return
address answers and leaves when the stack has room. -/

namespace Sys2Proof.Machine

open Sys2Proof

/-- Internal SRAM as numbers (R80). -/
theorem inSram_iff (p : Params) (a : Nat) : inSram p a = true ↔ 0x2000 ≤ a ∧ a < 0x2000 + p.sramSize := by
  unfold inSram
  simp only [Bool.and_eq_true, decide_eq_true_eq]
  rfl

/-- Room for `n` pushes as numbers (R95). -/
theorem canPush_iff (s : State) (n : Nat) : canPush s n = true ↔
    s.params.eepromSize ≤ 0x1000 ∧ 0x2000 + (n - 1) ≤ s.sp.toNat ∧ s.sp.toNat < 0x2000 + s.params.sramSize := by
  unfold canPush
  simp only [Bool.and_eq_true, decide_eq_true_eq, and_assoc]
  rfl

/-- `n` bytes to pop as numbers (R95). -/
theorem canPop_iff (s : State) (n : Nat) : canPop s n = true ↔
    s.params.eepromSize ≤ 0x1000 ∧ 0x2000 ≤ s.sp.toNat + 1 ∧ s.sp.toNat + n < 0x2000 + s.params.sramSize ∧ s.sp.toNat + n < 0x10000 := by
  unfold canPop
  simp only [Bool.and_eq_true, decide_eq_true_eq, and_assoc]
  rfl

/-- SP plus a few bytes, when it does not wrap (R43). -/
theorem sp_add_toNat (x : Word) (k : Nat) (h : x.toNat + k < 65536) : (x + BitVec.ofNat 16 k).toNat = x.toNat + k := by
  rw [BitVec.toNat_add]; simp; omega

/-- The three bytes `PushPC` pushes (R94). -/
theorem ofInt_bytes (v : Int) : (BitVec.ofInt 24 v).extractLsb' 0 8 = BitVec.ofInt 8 v ∧
    (BitVec.ofInt 24 v).extractLsb' 8 8 = BitVec.ofInt 8 (v / 256) ∧
    (BitVec.ofInt 24 v).extractLsb' 16 8 = BitVec.ofInt 8 (v / 65536) := by
  refine ⟨?_, ?_, ?_⟩ <;> apply BitVec.eq_of_toNat_eq <;>
    simp only [BitVec.extractLsb'_toNat, BitVec.toNat_ofInt, Nat.shiftRight_eq_div_pow] <;> omega

/-- `PushPC` with room for the return address: the bytes pushed, and nothing else changed (R94, R95). -/
theorem pushPc_ok (s : State) (v : Int) (h : canPush s s.params.retBytes = true) :
    ∃ t, pushPc v s = .ok t ∧ s.pushed t s.params.retBytes v ∧ t = { s with sram := t.sram, sp := t.sp } := by
  obtain ⟨he, h1, h2⟩ := (canPush_iff _ _).mp h
  obtain ⟨b0, b1, b2⟩ := ofInt_bytes v
  have sub : ∀ k : Nat, k ≤ s.sp.toNat → (s.sp - BitVec.ofNat 16 k).toNat = s.sp.toNat - k := by
    intro k hk; have := s.sp.isLt; rw [BitVec.toNat_sub]; simp; omega
  have hsp := s.sp.isLt
  have p0 : push8 (BitVec.ofInt 8 v) s = _ := push8_ok he ((inSram_iff _ _).mpr (by omega))
  generalize hs1 : (s.setSram s.sp.toNat (BitVec.ofInt 8 v)).setSp (s.sp - 1) = s1 at p0
  have sp1 : s1.sp.toNat = s.sp.toNat - 1 := by rw [← hs1]; exact sub 1 (by omega)
  have par1 : s1.params = s.params := by rw [← hs1]; rfl
  by_cases hb : s.params.bigPc = true
  · have hrb : s.params.retBytes = 3 := by simp [Params.retBytes, hb]
    rw [hrb] at h1 ⊢
    have p1 : push8 (BitVec.ofInt 8 (v / 256)) s1 = _ :=
      push8_ok (by rw [par1]; exact he) (by rw [par1]; exact (inSram_iff _ _).mpr (by omega))
    generalize hs2 : (s1.setSram s1.sp.toNat (BitVec.ofInt 8 (v / 256))).setSp (s1.sp - 1) = s2 at p1
    have e2 : s2.sp = s.sp - BitVec.ofNat 16 2 := by rw [← hs2, ← hs1]; simp [BitVec.sub_sub]
    have sp2 : s2.sp.toNat = s.sp.toNat - 2 := by rw [e2]; exact sub 2 (by omega)
    have par2 : s2.params = s.params := by rw [← hs2]; exact par1
    have p2 : push8 (BitVec.ofInt 8 (v / 65536)) s2 = _ :=
      push8_ok (by rw [par2]; exact he) (by rw [par2]; exact (inSram_iff _ _).mpr (by omega))
    refine ⟨(s2.setSram s2.sp.toNat (BitVec.ofInt 8 (v / 65536))).setSp (s2.sp - 1), ?_, ⟨?_, ?_, ?_⟩, ?_⟩
    rotate_left
    · show (s2.sp - 1) = _
      rw [e2]; simp [BitVec.sub_sub]
    · intro k hk
      have : k = 0 ∨ k = 1 ∨ k = 2 := by omega
      rcases this with rfl | rfl | rfl
      · show ((s2.setSram s2.sp.toNat _).setSp _).sramAt _ = _
        show (s2.setSram s2.sp.toNat _).sramAt _ = _
        rw [sramAt_setSram, if_neg (by omega), ← hs2]
        show (s1.setSram s1.sp.toNat _).sramAt _ = _
        rw [sramAt_setSram, if_neg (by omega), ← hs1]
        show (s.setSram s.sp.toNat _).sramAt _ = _
        rw [sramAt_setSram, if_pos (by omega)]; simp
      · show (s2.setSram s2.sp.toNat _).sramAt _ = _
        rw [sramAt_setSram, if_neg (by omega), ← hs2]
        show (s1.setSram s1.sp.toNat _).sramAt _ = _
        rw [sramAt_setSram, if_pos (by omega)]; simp
      · show (s2.setSram s2.sp.toNat _).sramAt _ = _
        rw [sramAt_setSram, if_pos (by omega)]; norm_num
    · intro b hb
      show (s2.setSram s2.sp.toNat _).sramAt _ = _
      rw [sramAt_setSram, if_neg (by omega), ← hs2]
      show (s1.setSram s1.sp.toNat _).sramAt _ = _
      rw [sramAt_setSram, if_neg (by omega), ← hs1]
      show (s.setSram s.sp.toNat _).sramAt _ = _
      rw [sramAt_setSram, if_neg (by omega)]
    · rw [← hs2, ← hs1]; rfl
    · have hx : pushPc v s = (push8 ((BitVec.ofInt 24 v).extractLsb' 0 8) s).bind (fun s =>
        (push8 ((BitVec.ofInt 24 v).extractLsb' 8 8) s).bind
        (fun s => if s.params.bigPc then push8 ((BitVec.ofInt 24 v).extractLsb' 16 8) s else .ok s)) := rfl
      rw [hx, b0, b1, b2, p0]; simp only [Except.bind]; rw [p1]; simp only [par2, hb, if_true]; exact p2
  · have hrb : s.params.retBytes = 2 := by simp [Params.retBytes, hb]
    rw [hrb] at h1 ⊢
    have p1 : push8 (BitVec.ofInt 8 (v / 256)) s1 = _ :=
      push8_ok (by rw [par1]; exact he) (by rw [par1]; exact (inSram_iff _ _).mpr (by omega))
    generalize hs2 : (s1.setSram s1.sp.toNat (BitVec.ofInt 8 (v / 256))).setSp (s1.sp - 1) = s2 at p1
    have par2 : s2.params = s.params := by rw [← hs2]; exact par1
    refine ⟨s2, ?_, ⟨?_, ?_, ?_⟩, ?_⟩
    rotate_left
    · rw [← hs2, ← hs1]; simp [BitVec.sub_sub]
    · intro k hk
      have : k = 0 ∨ k = 1 := by omega
      rcases this with rfl | rfl
      · rw [← hs2]
        show (s1.setSram s1.sp.toNat _).sramAt _ = _
        rw [sramAt_setSram, if_neg (by omega), ← hs1]
        show (s.setSram s.sp.toNat _).sramAt _ = _
        rw [sramAt_setSram, if_pos (by omega)]; simp
      · rw [← hs2]
        show (s1.setSram s1.sp.toNat _).sramAt _ = _
        rw [sramAt_setSram, if_pos (by omega)]; simp
    · intro b hb
      rw [← hs2]
      show (s1.setSram s1.sp.toNat _).sramAt _ = _
      rw [sramAt_setSram, if_neg (by omega), ← hs1]
      show (s.setSram s.sp.toNat _).sramAt _ = _
      rw [sramAt_setSram, if_neg (by omega)]
    · rw [← hs2, ← hs1]; rfl
    · have hx : pushPc v s = (push8 ((BitVec.ofInt 24 v).extractLsb' 0 8) s).bind (fun s =>
        (push8 ((BitVec.ofInt 24 v).extractLsb' 8 8) s).bind
        (fun s => if s.params.bigPc then push8 ((BitVec.ofInt 24 v).extractLsb' 16 8) s else .ok s)) := rfl
      rw [hx, b0, b1, p0]; simp only [Except.bind]; rw [p1]; simp only [par2, hb]; rfl

/-- One pop inside SRAM (R95). -/
theorem pop8_canPop (s : State) (h : canPop s 1 = true) : pop8 s = .ok (s.sramAt (s.sp.toNat + 1), s.setSp (s.sp + 1)) := by
  obtain ⟨h0, h1, h2, h3⟩ := (canPop_iff _ _).mp h
  have e : (s.sp + 1).toNat = s.sp.toNat + 1 := sp_add_toNat s.sp 1 h3
  rw [pop8_ok h0 (by rw [e]; exact (inSram_iff _ _).mpr (by omega)), e]

/-- `PopPC` with the return address on the stack: the address, and SP moved past it (R94, R95). -/
theorem popPc_ok (s : State) (h : canPop s s.params.retBytes = true) :
    popPc s = .ok ((s.returnAddress : Int), s.setSp (s.sp + BitVec.ofNat 16 s.params.retBytes)) := by
  obtain ⟨h0, h1, h2, h3⟩ := (canPop_iff _ _).mp h
  by_cases hb : s.params.bigPc = true
  · have hrb : s.params.retBytes = 3 := by simp [Params.retBytes, hb]
    rw [hrb] at h2 h3 ⊢
    have p1 := pop8_canPop s ((canPop_iff _ _).mpr ⟨h0, h1, by omega, by omega⟩)
    have e1 : (s.sp + 1).toNat = s.sp.toNat + 1 := sp_add_toNat s.sp 1 (by omega)
    have p2 := pop8_canPop (s.setSp (s.sp + 1)) ((canPop_iff _ _).mpr
      ⟨h0, by simp only [setSp_sp]; omega, by simp only [setSp_sp, setSp_params]; omega, by simp only [setSp_sp]; omega⟩)
    have e2 : (s.sp + 1 + 1).toNat = s.sp.toNat + 2 := by
      rw [show s.sp + 1 + 1 = s.sp + BitVec.ofNat 16 2 by rw [BitVec.add_assoc]; rfl]
      exact sp_add_toNat s.sp 2 (by omega)
    have p3 := pop8_canPop ((s.setSp (s.sp + 1)).setSp (s.sp + 1 + 1)) ((canPop_iff _ _).mpr
      ⟨h0, by simp only [setSp_sp]; omega, by simp only [setSp_sp, setSp_params]; omega, by simp only [setSp_sp]; omega⟩)
    simp only [setSp_sp, e1, e2] at p2 p3
    unfold popPc
    rw [if_pos hb, p1]
    show (pop8 (s.setSp (s.sp + 1))).bind _ = _
    rw [p2]
    show (pop8 ((s.setSp (s.sp + 1)).setSp (s.sp + 1 + 1))).bind _ = _
    rw [p3]
    simp only [Except.bind, pure, Except.pure]
    congr 1
    ext1
    · simp only [State.returnAddress, if_pos hb, BitVec.toNat_append]
      rw [← Nat.shiftLeft_add_eq_or_of_lt (BitVec.isLt _), ← Nat.shiftLeft_add_eq_or_of_lt (by
        have := (s.sramAt (s.sp.toNat+3)).isLt; have := (s.sramAt (s.sp.toNat+2)).isLt
        simp [Nat.shiftLeft_eq]; omega)]
      simp only [Nat.shiftLeft_eq]
      exact congrArg Nat.cast (by
        show _ * _ + ((s.sramAt (s.sp.toNat + 2)).toNat * 2^8 + (s.sramAt (s.sp.toNat + 3)).toNat) = _
        rw [Nat.pow_add]; omega)
    · show (((s.setSp _).setSp _).setSp (s.sp + 1 + 1 + 1)) = _
      rw [show s.sp + 1 + 1 + 1 = s.sp + BitVec.ofNat 16 3 by rw [BitVec.add_assoc, BitVec.add_assoc]; rfl]; rfl
  · have hrb : s.params.retBytes = 2 := by simp [Params.retBytes, hb]
    rw [hrb] at h2 h3 ⊢
    have p1 := pop8_canPop s ((canPop_iff _ _).mpr ⟨h0, h1, by omega, by omega⟩)
    have e1 : (s.sp + 1).toNat = s.sp.toNat + 1 := sp_add_toNat s.sp 1 (by omega)
    have p2 := pop8_canPop (s.setSp (s.sp + 1)) ((canPop_iff _ _).mpr
      ⟨h0, by simp only [setSp_sp]; omega, by simp only [setSp_sp, setSp_params]; omega, by simp only [setSp_sp]; omega⟩)
    simp only [setSp_sp, e1] at p2
    unfold popPc
    rw [if_neg hb]
    show (pop8 s).bind _ = _
    rw [p1]
    show (pop8 (s.setSp (s.sp + 1))).bind _ = _
    rw [p2]
    simp only [Except.bind, pure, Except.pure]
    congr 1
    ext1
    · simp only [State.returnAddress, if_neg hb, BitVec.toNat_append]
      rw [← Nat.shiftLeft_add_eq_or_of_lt (BitVec.isLt _), ← Nat.shiftLeft_add_eq_or_of_lt (by
        have := (s.sramAt (s.sp.toNat+1)).isLt; have := (s.sramAt (s.sp.toNat+2)).isLt
        simp [Nat.shiftLeft_eq]; omega)]
      simp only [Nat.shiftLeft_eq]
      exact congrArg Nat.cast (by
        show _ * _ + (_ + (s.sramAt (s.sp.toNat + 2)).toNat) = _
        simp)
    · show ((s.setSp _).setSp (s.sp + 1 + 1)) = _
      rw [show s.sp + 1 + 1 = s.sp + BitVec.ofNat 16 2 by rw [BitVec.add_assoc]; rfl]; rfl

end Sys2Proof.Machine
end

