-- ==== Sys2Proof/Tests/Slice0.lean ====
section
/-! SUPPORT. Tests of one step each, and the witnesses of the statements' hypotheses. The words and expected results are those of
the spec: its opcode table (30_encoding.md R142), the worked examples of its instruction rules, and the vectors of
95_test_vectors.md, whose ids the section comments name. -/

namespace Sys2Proof.Tests

open Sys2Proof Sys2Proof.Machine

/-- The reset state with some registers and SREG set. -/
def given (rs : List (Reg × Byte)) (sreg : Byte) : State :=
  { rs.foldl (fun s r => s.setReg r.1 r.2) State.reset with sreg := sreg }

/-- The state with words put in flash from pc on. -/
def code (words : List Word) (s : State) : State :=
  words.zipIdx.foldl (fun s w => s.placeWord (s.pc.toNat + w.2) w.1) s

/-- What a next state shows. -/
def after {α : Type} (r : Result) (f : State → α) : Option α :=
  match r with
  | .next t => some (f t)
  | _ => none

/-- What one instruction at pc leaves (R512). -/
def ran {α : Type} (words : List Word) (s : State) (f : State → α) : Option α := after (executeNext (code words s)) f

/-- The mark recorded by a fault of one instruction at pc, and what the recorded state shows. -/
def stopped {α : Type} (words : List Word) (s : State) (f : State → α) : Option (ModelFault × α) :=
  match executeNext (code words s) with
  | .fault (.fetchOutOfRange _ t) | .fault (.stackOutsideSram _ t) | .fault (.flashReadOutOfRange _ t) =>
    t.fault.map (·, f t)
  | _ => none

/-- Some registers, SREG, pc and the debt, which is the count the instruction returned (R512). -/
def look (rs : List Reg) (t : State) : List Byte × Byte × Int × Nat := (rs.map t.reg, t.sreg, t.pc, t.instructionCycles)

/-! ## Decoding: for every constructor a word written out from its row of R142 -/

theorem test_decode_fixed_and_words :
    decode 0b0000_0000_0000_0000 0 = .ok .nop ∧
    decode 0b0000_0001_1001_0110 0 = .ok (.movw 18 12) ∧
    decode 0b0000_0010_1001_0110 0 = .ok (.muls 25 22) ∧
    decode 0b0000_0011_0110_0011 0 = .ok (.mulsu 22 19) ∧
    decode 0b0000_0011_0110_1011 0 = .ok (.fmul 22 19) ∧
    decode 0b0000_0011_1110_0011 0 = .ok (.fmuls 22 19) ∧
    decode 0b0000_0011_1110_1011 0 = .ok (.fmulsu 22 19) := by decide

theorem test_decode_two_registers :
    decode 0b0000_0101_0110_1101 0 = .ok (.cpc 22 13) ∧
    decode 0b0000_1001_0110_1101 0 = .ok (.sbc 22 13) ∧
    decode 0b0000_1101_0110_1101 0 = .ok (.add 22 13) ∧
    decode 0b0001_0001_0110_1101 0 = .ok (.cpse 22 13) ∧
    decode 0b0001_0101_0110_1101 0 = .ok (.cp 22 13) ∧
    decode 0b0001_1001_0110_1101 0 = .ok (.sub 22 13) ∧
    decode 0b0001_1101_0110_1101 0 = .ok (.adc 22 13) ∧
    decode 0b0010_0001_0110_1101 0 = .ok (.and 22 13) ∧
    decode 0b0010_0101_0110_1101 0 = .ok (.eor 22 13) ∧
    decode 0b0010_1001_0110_1101 0 = .ok (.or 22 13) ∧
    decode 0b0010_1101_0110_1101 0 = .ok (.mov 22 13) := by decide

theorem test_decode_immediate :
    decode 0b0011_1011_1001_0100 0 = .ok (.cpi 25 0xB4) ∧
    decode 0b0100_1011_1001_0100 0 = .ok (.sbci 25 0xB4) ∧
    decode 0b0101_1011_1001_0100 0 = .ok (.subi 25 0xB4) ∧
    decode 0b0110_1011_1001_0100 0 = .ok (.ori 25 0xB4) ∧
    decode 0b0111_1011_1001_0100 0 = .ok (.andi 25 0xB4) := by decide

theorem test_decode_displacement :
    decode 0b1000_0001_0110_0000 0 = .ok (.ldZ 22) ∧
    decode 0b1000_0001_0110_1000 0 = .ok (.ldY 22) ∧
    decode 0b1000_0010_1101_0000 0 = .ok (.stZ 13) ∧
    decode 0b1000_0010_1101_1000 0 = .ok (.stY 13) ∧
    decode 0b1010_0101_0110_0110 0 = .ok (.lddZ 22 46) ∧
    decode 0b1010_0101_0110_1110 0 = .ok (.lddY 22 46) ∧
    decode 0b1010_0110_1101_0110 0 = .ok (.stdZ 46 13) ∧
    decode 0b1010_0110_1101_1110 0 = .ok (.stdY 46 13) := by decide

theorem test_decode_loads :
    decode 0b1001_0001_0110_0000 0b0010_1010_0101_1100 = .ok (.lds 22 0x2A5C) ∧
    decode 0b1001_0001_0110_0001 0 = .ok (.ldZInc 22) ∧
    decode 0b1001_0001_0110_0010 0 = .ok (.ldZDec 22) ∧
    decode 0b1001_0001_0110_0100 0 = .ok (.lpmZ 22) ∧
    decode 0b1001_0001_0110_0101 0 = .ok (.lpmZInc 22) ∧
    decode 0b1001_0001_0110_0110 0 = .ok (.elpmZ 22) ∧
    decode 0b1001_0001_0110_0111 0 = .ok (.elpmZInc 22) ∧
    decode 0b1001_0001_0110_1001 0 = .ok (.ldYInc 22) ∧
    decode 0b1001_0001_0110_1010 0 = .ok (.ldYDec 22) ∧
    decode 0b1001_0001_0110_1100 0 = .ok (.ldX 22) ∧
    decode 0b1001_0001_0110_1101 0 = .ok (.ldXInc 22) ∧
    decode 0b1001_0001_0110_1110 0 = .ok (.ldXDec 22) ∧
    decode 0b1001_0001_0110_1111 0 = .ok (.pop 22) := by decide

theorem test_decode_stores :
    decode 0b1001_0010_1101_0000 0b0010_1010_0101_1100 = .ok (.sts 0x2A5C 13) ∧
    decode 0b1001_0010_1101_0001 0 = .ok (.stZInc 13) ∧
    decode 0b1001_0010_1101_0010 0 = .ok (.stZDec 13) ∧
    decode 0b1001_0011_0110_0100 0 = .ok (.xch 22) ∧
    decode 0b1001_0011_0110_0101 0 = .ok (.las 22) ∧
    decode 0b1001_0011_0110_0110 0 = .ok (.lac 22) ∧
    decode 0b1001_0011_0110_0111 0 = .ok (.lat 22) ∧
    decode 0b1001_0010_1101_1001 0 = .ok (.stYInc 13) ∧
    decode 0b1001_0010_1101_1010 0 = .ok (.stYDec 13) ∧
    decode 0b1001_0010_1101_1100 0 = .ok (.stX 13) ∧
    decode 0b1001_0010_1101_1101 0 = .ok (.stXInc 13) ∧
    decode 0b1001_0010_1101_1110 0 = .ok (.stXDec 13) ∧
    decode 0b1001_0010_1101_1111 0 = .ok (.push 13) := by decide

theorem test_decode_one_register :
    decode 0b1001_0101_0110_0000 0 = .ok (.com 22) ∧
    decode 0b1001_0101_0110_0001 0 = .ok (.neg 22) ∧
    decode 0b1001_0101_0110_0010 0 = .ok (.swap 22) ∧
    decode 0b1001_0101_0110_0011 0 = .ok (.inc 22) ∧
    decode 0b1001_0101_0110_0101 0 = .ok (.asr 22) ∧
    decode 0b1001_0101_0110_0110 0 = .ok (.lsr 22) ∧
    decode 0b1001_0101_0110_0111 0 = .ok (.ror 22) := by decide

theorem test_decode_sreg_and_fixed :
    decode 0b1001_0100_0101_1000 0 = .ok (.bset 5) ∧
    decode 0b1001_0100_1101_1000 0 = .ok (.bclr 5) ∧
    decode 0b1001_0101_0000_1000 0 = .ok .ret ∧
    decode 0b1001_0101_0001_1000 0 = .ok .reti ∧
    decode 0b1001_0101_1000_1000 0 = .ok .sleep ∧
    decode 0b1001_0101_1001_1000 0 = .ok .brk ∧
    decode 0b1001_0101_1010_1000 0 = .ok .wdr ∧
    decode 0b1001_0101_1100_1000 0 = .ok .lpmR0 ∧
    decode 0b1001_0101_1101_1000 0 = .ok .elpmR0 ∧
    decode 0b1001_0101_1110_1000 0 = .ok .spm ∧
    decode 0b1001_0101_1111_1000 0 = .ok .spmZInc ∧
    decode 0b1001_0100_0000_1001 0 = .ok .ijmp ∧
    decode 0b1001_0100_0001_1001 0 = .ok .eijmp ∧
    decode 0b1001_0101_0000_1001 0 = .ok .icall ∧
    decode 0b1001_0101_0001_1001 0 = .ok .eicall := by decide

theorem test_decode_dec_to_call :
    decode 0b1001_0101_0110_1010 0 = .ok (.dec 22) ∧
    decode 0b1001_0100_1011_1011 0 = .ok (.des 0xB) ∧
    decode 0b1001_0101_0110_1101 0b0001_0010_0011_0101 = .ok (.jmp 0x2D1235) ∧
    decode 0b1001_0101_0110_1111 0b0001_0010_0011_0101 = .ok (.call 0x2D1235) := by decide

theorem test_decode_word_immediate_and_io_bits :
    decode 0b1001_0110_1010_1101 0 = .ok (.adiw 28 0x2D) ∧
    decode 0b1001_0111_1010_1101 0 = .ok (.sbiw 28 0x2D) ∧
    decode 0b1001_1000_1011_0101 0 = .ok (.cbi 22 5) ∧
    decode 0b1001_1001_1011_0101 0 = .ok (.sbic 22 5) ∧
    decode 0b1001_1010_1011_0101 0 = .ok (.sbi 22 5) ∧
    decode 0b1001_1011_1011_0101 0 = .ok (.sbis 22 5) := by decide

theorem test_decode_mul_io_and_relative :
    decode 0b1001_1101_0110_1101 0 = .ok (.mul 22 13) ∧
    decode 0b1011_0111_0110_0110 0 = .ok (.inp 22 54) ∧
    decode 0b1011_1110_1101_0110 0 = .ok (.outp 54 13) ∧
    decode 0b1100_1011_0101_1101 0 = .ok (.rjmp 0xB5D) ∧
    decode 0b1101_1011_0101_1101 0 = .ok (.rcall 0xB5D) ∧
    decode 0b1110_1011_1001_0100 0 = .ok (.ldi 25 0xB4) := by decide

theorem test_decode_branches_and_bits :
    decode 0b1111_0010_1100_1101 0 = .ok (.brbs 5 0x59) ∧
    decode 0b1111_0110_1100_1101 0 = .ok (.brbc 5 0x59) ∧
    decode 0b1111_1001_0110_0101 0 = .ok (.bld 22 5) ∧
    decode 0b1111_1011_0110_0101 0 = .ok (.bst 22 5) ∧
    decode 0b1111_1100_1101_0101 0 = .ok (.sbrc 13 5) ∧
    decode 0b1111_1110_1101_0101 0 = .ok (.sbrs 13 5) := by decide

/-! ## SREG and register bits: V40 -/

/-- V40.1. -/
theorem test_bset : ran [0x9478] (given [] 0x00) (look []) =
    some ([], 0x80, 0x1, 1) := by decide

/-- V40.2. -/
theorem test_bset_s : ran [0x9448] (given [] 0x00) (look []) =
    some ([], 0x10, 0x1, 1) := by decide

/-- V40.4. -/
theorem test_bclr : ran [0x94F8] (given [] 0x81) (look []) =
    some ([], 0x01, 0x1, 1) := by decide

/-- V40.3. -/
theorem test_bclr_c : ran [0x9488] (given [] 0x03) (look []) =
    some ([], 0x02, 0x1, 1) := by decide

/-- V40.5. -/
theorem test_bst : ran [0xFB03] (given [(16, 0x08)] 0x00) (look [16]) =
    some ([0x08], 0x40, 0x1, 1) := by decide

/-- V40.10. -/
theorem test_bst_clear : ran [0xFA00] (given [(0, 0x00)] 0xFF) (look [0]) =
    some ([0x00], 0xBF, 0x1, 1) := by decide

/-- V40.8. -/
theorem test_bld : ran [0xF9F7] (given [(31, 0xFF)] 0x00) (look [31]) =
    some ([0x7F], 0x00, 0x1, 1) := by decide

/-- V40.7. -/
theorem test_bld_set : ran [0xF800] (given [(0, 0xF0)] 0x40) (look [0]) =
    some ([0xF1], 0x40, 0x1, 1) := by decide

/-! ## Unary arithmetic: V41 -/

/-- V41.1. -/
theorem test_com : ran [0x9400] (given [(0, 0x0F)] 0x00) (look [0]) =
    some ([0xF0], 0x15, 0x1, 1) := by decide

/-- V41.2. -/
theorem test_com_zero : ran [0x9400] (given [(0, 0xFF)] 0x00) (look [0]) =
    some ([0x00], 0x03, 0x1, 1) := by decide

/-- V41.3. -/
theorem test_neg : ran [0x9501] (given [(16, 0x01)] 0x00) (look [16]) =
    some ([0xFF], 0x35, 0x1, 1) := by decide

/-- V41.5. -/
theorem test_neg_min : ran [0x9501] (given [(16, 0x80)] 0x00) (look [16]) =
    some ([0x80], 0x0D, 0x1, 1) := by decide

/-- V41.6. -/
theorem test_swap : ran [0x9502] (given [(16, 0x3C)] 0x03) (look [16]) =
    some ([0xC3], 0x03, 0x1, 1) := by decide

/-- V41.7. -/
theorem test_inc_overflow : ran [0x9583] (given [(24, 0x7F)] 0x00) (look [24]) =
    some ([0x80], 0x0C, 0x1, 1) := by decide

/-- V41.8. -/
theorem test_inc_wrap : ran [0x9583] (given [(24, 0xFF)] 0x01) (look [24]) =
    some ([0x00], 0x03, 0x1, 1) := by decide

/-- V41.11. -/
theorem test_dec_overflow : ran [0x950A] (given [(16, 0x80)] 0x00) (look [16]) =
    some ([0x7F], 0x18, 0x1, 1) := by decide

/-- V41.10. -/
theorem test_dec_wrap : ran [0x950A] (given [(16, 0x00)] 0x00) (look [16]) =
    some ([0xFF], 0x14, 0x1, 1) := by decide

/-- V41.12. -/
theorem test_asr : ran [0x9505] (given [(16, 0x81)] 0x00) (look [16]) =
    some ([0xC0], 0x15, 0x1, 1) := by decide

/-- V41.13. -/
theorem test_asr_to_zero : ran [0x9505] (given [(16, 0x01)] 0x00) (look [16]) =
    some ([0x00], 0x1B, 0x1, 1) := by decide

/-- V41.14. -/
theorem test_lsr : ran [0x9506] (given [(16, 0x03)] 0x00) (look [16]) =
    some ([0x01], 0x19, 0x1, 1) := by decide

/-- V41.15. -/
theorem test_lsr_top : ran [0x9506] (given [(16, 0x80)] 0x00) (look [16]) =
    some ([0x40], 0x00, 0x1, 1) := by decide

/-- V41.16. -/
theorem test_ror : ran [0x9507] (given [(16, 0x02)] 0x01) (look [16]) =
    some ([0x81], 0x0C, 0x1, 1) := by decide

/-- V41.17. -/
theorem test_ror_to_zero : ran [0x9507] (given [(16, 0x01)] 0x00) (look [16]) =
    some ([0x00], 0x1B, 0x1, 1) := by decide

/-! ## Binary register-register: V42 -/

/-- V42.2. -/
theorem test_add_overflow : ran [0x0F01] (given [(16, 0x7F), (17, 0x01)] 0x00) (look [16, 17]) =
    some ([0x80, 0x01], 0x2C, 0x1, 1) := by decide

/-- V42.3. -/
theorem test_add_same : ran [0x0F00] (given [(16, 0x80)] 0x00) (look [16]) =
    some ([0x00], 0x1B, 0x1, 1) := by decide

/-- V42.5. -/
theorem test_adc_half : ran [0x1F01] (given [(16, 0x0F), (17, 0x00)] 0x01) (look [16, 17]) =
    some ([0x10, 0x00], 0x20, 0x1, 1) := by decide

/-- V42.6. -/
theorem test_adc_same : ran [0x1F00] (given [(16, 0x81)] 0x01) (look [16]) =
    some ([0x03], 0x19, 0x1, 1) := by decide

/-- V42.7. -/
theorem test_sub_borrow : ran [0x1B01] (given [(16, 0x00), (17, 0x01)] 0x00) (look [16, 17]) =
    some ([0xFF, 0x01], 0x35, 0x1, 1) := by decide

/-- V42.8. -/
theorem test_sub_overflow : ran [0x1B01] (given [(16, 0x80), (17, 0x01)] 0x00) (look [16, 17]) =
    some ([0x7F, 0x01], 0x38, 0x1, 1) := by decide

/-- V42.9. -/
theorem test_sbc_keeps_z : ran [0x0B01] (given [(16, 0x05), (17, 0x04)] 0x03) (look [16, 17]) =
    some ([0x00, 0x04], 0x02, 0x1, 1) := by decide

/-- V42.11. -/
theorem test_sbc_borrow : ran [0x0B01] (given [(16, 0x00), (17, 0x00)] 0x01) (look [16, 17]) =
    some ([0xFF, 0x00], 0x35, 0x1, 1) := by decide

/-- V42.12. -/
theorem test_and : ran [0x2301] (given [(16, 0xF0), (17, 0x0F)] 0x21) (look [16, 17]) =
    some ([0x00, 0x0F], 0x23, 0x1, 1) := by decide

/-- V42.21. -/
theorem test_and_same : ran [0x2300] (given [(16, 0x80)] 0x08) (look [16]) =
    some ([0x80], 0x14, 0x1, 1) := by decide

/-- V42.13. -/
theorem test_or : ran [0x2B01] (given [(16, 0x80), (17, 0x01)] 0x08) (look [16, 17]) =
    some ([0x81, 0x01], 0x14, 0x1, 1) := by decide

/-- V42.14. -/
theorem test_eor : ran [0x2700] (given [(16, 0xA5)] 0x00) (look [16]) =
    some ([0x00], 0x02, 0x1, 1) := by decide

/-- V42.15. -/
theorem test_mov : ran [0x2F01] (given [(17, 0x5A)] 0x03) (look [16, 17]) =
    some ([0x5A, 0x5A], 0x03, 0x1, 1) := by decide

/-- V42.16. -/
theorem test_cp_borrow : ran [0x1701] (given [(16, 0x01), (17, 0x02)] 0x00) (look [16, 17]) =
    some ([0x01, 0x02], 0x35, 0x1, 1) := by decide

/-- V42.17. -/
theorem test_cp_overflow : ran [0x1701] (given [(16, 0x80), (17, 0x7F)] 0x00) (look [16, 17]) =
    some ([0x80, 0x7F], 0x38, 0x1, 1) := by decide

/-- V42.18. -/
theorem test_cpc_keeps_z : ran [0x0701] (given [(16, 0x33), (17, 0x33)] 0x00) (look [16, 17]) =
    some ([0x33, 0x33], 0x00, 0x1, 1) := by decide

/-- V42.20. -/
theorem test_cpc_borrow : ran [0x0701] (given [(16, 0x33), (17, 0x33)] 0x03) (look [16, 17]) =
    some ([0x33, 0x33], 0x35, 0x1, 1) := by decide

/-! ## Multiply: V43 -/

/-- V43.1. -/
theorem test_mul : ran [0x9F01] (given [(16, 0xFF), (17, 0xFF)] 0x00) (look [0, 1, 16, 17]) =
    some ([0x01, 0xFE, 0xFF, 0xFF], 0x01, 0x1, 2) := by decide

/-- V43.16. -/
theorem test_mul_r1 : ran [0x9C11] (given [(1, 0x10)] 0x00) (look [0, 1]) =
    some ([0x00, 0x01], 0x00, 0x1, 2) := by decide

/-- V43.4. -/
theorem test_muls : ran [0x0201] (given [(16, 0xFE), (17, 0x03)] 0x00) (look [0, 1, 16, 17]) =
    some ([0xFA, 0xFF, 0xFE, 0x03], 0x01, 0x1, 2) := by decide

/-- V43.5. -/
theorem test_muls_min : ran [0x0201] (given [(16, 0x80), (17, 0x80)] 0x00) (look [1, 16, 17]) =
    some ([0x40, 0x80, 0x80], 0x00, 0x1, 2) := by decide

/-- V43.6. -/
theorem test_mulsu : ran [0x0301] (given [(16, 0xFF), (17, 0x02)] 0x00) (look [0, 1, 16, 17]) =
    some ([0xFE, 0xFF, 0xFF, 0x02], 0x01, 0x1, 2) := by decide

/-- V43.7. -/
theorem test_mulsu_min : ran [0x0301] (given [(16, 0x80), (17, 0xFF)] 0x00) (look [0, 1, 16, 17]) =
    some ([0x80, 0x80, 0x80, 0xFF], 0x01, 0x1, 2) := by decide

/-- V43.9. -/
theorem test_fmul : ran [0x0309] (given [(16, 0xFF), (17, 0xFF)] 0x00) (look [0, 1, 16, 17]) =
    some ([0x02, 0xFC, 0xFF, 0xFF], 0x01, 0x1, 2) := by decide

/-- V43.11. -/
theorem test_fmuls_min : ran [0x0381] (given [(16, 0x80), (17, 0x80)] 0x00) (look [1, 16, 17]) =
    some ([0x80, 0x80, 0x80], 0x00, 0x1, 2) := by decide

/-- V43.12. -/
theorem test_fmuls : ran [0x0381] (given [(16, 0x40), (17, 0xC0)] 0x00) (look [1, 16, 17]) =
    some ([0xE0, 0x40, 0xC0], 0x01, 0x1, 2) := by decide

/-- V43.13. -/
theorem test_fmulsu : ran [0x0389] (given [(16, 0xC0), (17, 0x80)] 0x00) (look [1, 16, 17]) =
    some ([0xC0, 0xC0, 0x80], 0x01, 0x1, 2) := by decide

/-- V43.14. -/
theorem test_fmulsu_pos : ran [0x0389] (given [(16, 0x7F), (17, 0xFF)] 0x00) (look [0, 1, 16, 17]) =
    some ([0x02, 0xFD, 0x7F, 0xFF], 0x00, 0x1, 2) := by decide

/-! ## Register-immediate: V44 -/

/-- V44.1. -/
theorem test_cpi : ran [0x3000] (given [(16, 0x00)] 0x00) (look [16]) =
    some ([0x00], 0x02, 0x1, 1) := by decide

/-- V44.2. -/
theorem test_cpi_borrow : ran [0x3FFF] (given [(31, 0x00)] 0x00) (look [31]) =
    some ([0x00], 0x21, 0x1, 1) := by decide

/-- V44.3. -/
theorem test_subi : ran [0x5001] (given [(16, 0x10)] 0x00) (look [16]) =
    some ([0x0F], 0x20, 0x1, 1) := by decide

/-- V44.4. -/
theorem test_subi_min : ran [0x5800] (given [(16, 0x00)] 0x00) (look [16]) =
    some ([0x80], 0x0D, 0x1, 1) := by decide

/-- V44.5. -/
theorem test_sbci : ran [0x4010] (given [(17, 0x00)] 0x01) (look [17]) =
    some ([0xFF], 0x35, 0x1, 1) := by decide

/-- V44.6. -/
theorem test_sbci_keeps_z : ran [0x4010] (given [(17, 0x01)] 0x03) (look [17]) =
    some ([0x00], 0x02, 0x1, 1) := by decide

/-- V44.7. -/
theorem test_andi : ran [0x700F] (given [(16, 0xA5)] 0x00) (look [16]) =
    some ([0x05], 0x00, 0x1, 1) := by decide

/-- V44.8. -/
theorem test_ori : ran [0x6F00] (given [(16, 0x05)] 0x00) (look [16]) =
    some ([0xF5], 0x14, 0x1, 1) := by decide

/-- V44.9. -/
theorem test_ldi : ran [0xEF0F] (given [] 0x02) (look [16]) =
    some ([0xFF], 0x02, 0x1, 1) := by decide

/-- V44.10. -/
theorem test_ldi_r31 : ran [0xE0F0] (given [(31, 0x77)] 0x00) (look [31]) =
    some ([0x00], 0x00, 0x1, 1) := by decide

/-! ## Word operations: V45 -/

/-- V45.1. -/
theorem test_movw : ran [0x01CF] (given [(30, 0x34), (31, 0x12)] 0x00) (look [24, 25, 30, 31]) =
    some ([0x34, 0x12, 0x34, 0x12], 0x00, 0x1, 1) := by decide

/-- V45.2. -/
theorem test_movw_same : ran [0x0100] (given [(0, 0x11), (1, 0x22)] 0x00) (look [0, 1]) =
    some ([0x11, 0x22], 0x00, 0x1, 1) := by decide

/-- V45.5. -/
theorem test_adiw_overflow : ran [0x9601] (given [(24, 0xFF), (25, 0x7F)] 0x00) (look [24, 25]) =
    some ([0x00, 0x80], 0x0C, 0x1, 2) := by decide

/-- V45.4. -/
theorem test_adiw_wrap : ran [0x9601] (given [(24, 0xFF), (25, 0xFF)] 0x00) (look [24, 25]) =
    some ([0x00, 0x00], 0x03, 0x1, 2) := by decide

/-- V45.8. -/
theorem test_sbiw_borrow : ran [0x9711] (given [(26, 0x00), (27, 0x00)] 0x00) (look [26, 27]) =
    some ([0xFF, 0xFF], 0x15, 0x1, 2) := by decide

/-- V45.9. -/
theorem test_sbiw_overflow : ran [0x9721] (given [(28, 0x00), (29, 0x80)] 0x00) (look [28, 29]) =
    some ([0xFF, 0x7F], 0x18, 0x1, 2) := by decide

/-! ## Loads, stores, program memory, atomics: V46 and the examples of 46_load_store.md -/

/-- V46.1. -/
theorem test_lds : ran [0x9100, 0x2000] ((given [] 0x00).setSram 0x2000 0x42) (fun t => (look [16] t, t.sramAt 0x2000)) =
    some (([0x42], 0x00, 0x2, 2), 0x42) := by decide

/-- V46.2. -/
theorem test_lds_sreg : ran [0x9100, 0x003F] (given [] 0x81) (look [16]) =
    some ([0x81], 0x81, 0x2, 2) := by decide

/-- V46.5. -/
theorem test_sts : ran [0x9300, 0x2001] (given [(16, 0x99)] 0x00) (fun t => (look [16] t, t.sramAt 0x2001)) =
    some (([0x99], 0x00, 0x2, 2), 0x99) := by decide

/-- V46.6. -/
theorem test_sts_read_only : ran [0x9300, 0xFF00] (given [(16, 0x99)] 0x00) (fun t => (look [16] t, t.log)) =
    some (([0x99], 0x00, 0x2, 2), [.readOnlyWrite 0xFF00]) := by decide

/-- V46.7. -/
theorem test_ldX : ran [0x910C]
    ((given [(26, 0x00), (27, 0x20)] 0x00).setSram 0x2000 0x11)
    (fun t => (look [16, 26, 27] t, t.sramAt 0x2000)) = some (([0x11, 0x00, 0x20], 0x00, 0x1, 1), 0x11) := by decide

/-- V46.30. -/
theorem test_ldX_same : ran [0x91AC]
    ((given [(26, 0x00), (27, 0x20)] 0x00).setSram 0x2000 0x33)
    (fun t => (look [26, 27] t, t.sramAt 0x2000)) = some (([0x33, 0x20], 0x00, 0x1, 1), 0x33) := by decide

/-- V46.8. -/
theorem test_ldXInc : ran [0x910D]
    ((given [(26, 0x00), (27, 0x20)] 0x00).setSram 0x2000 0x22)
    (fun t => (look [16, 26, 27] t, t.sramAt 0x2000)) = some (([0x22, 0x01, 0x20], 0x00, 0x1, 1), 0x22) := by decide

/-- V46.9. -/
theorem test_ldXDec : ran [0x910E]
    ((given [(26, 0x01), (27, 0x20)] 0x00).setSram 0x2000 0x33)
    (fun t => (look [16, 26, 27] t, t.sramAt 0x2000)) = some (([0x33, 0x00, 0x20], 0x00, 0x1, 2), 0x33) := by decide

/-- V46.10. -/
theorem test_ldYInc : ran [0x9109]
    ((given [(28, 0xFF), (29, 0x20)] 0x00).setSram 0x20FF 0x44)
    (fun t => (look [16, 28, 29] t, t.sramAt 0x20FF)) = some (([0x44, 0x00, 0x21], 0x00, 0x1, 1), 0x44) := by decide

/-- V46.11. -/
theorem test_ldZDec : ran [0x9102]
    ((given [(30, 0x01), (31, 0x20)] 0x00).setSram 0x2000 0x55)
    (fun t => (look [16, 30, 31] t, t.sramAt 0x2000)) = some (([0x55, 0x00, 0x20], 0x00, 0x1, 2), 0x55) := by decide

/-- V46.12. -/
theorem test_lddY : ran [0xAD0F]
    ((given [(28, 0x00), (29, 0x20)] 0x00).setSram 0x203F 0x66)
    (fun t => (look [16, 28, 29] t, t.sramAt 0x203F)) = some (([0x66, 0x00, 0x20], 0x00, 0x1, 2), 0x66) := by decide

/-- V46.13. -/
theorem test_lddZ : ran [0x8102]
    ((given [(30, 0x00), (31, 0x20)] 0x00).setSram 0x2002 0x77)
    (fun t => (look [16, 30, 31] t, t.sramAt 0x2002)) = some (([0x77, 0x00, 0x20], 0x00, 0x1, 2), 0x77) := by decide

/-- V46.14. -/
theorem test_ldZ : ran [0x8100] (given [(30, 0x3F), (31, 0x00)] 0x80) (look [16, 30, 31]) =
    some ([0x80, 0x3F, 0x00], 0x80, 0x1, 1) := by decide

/-- V46.15. -/
theorem test_stX : ran [0x930C]
    (given [(16, 0x5A), (26, 0x00), (27, 0x20)] 0x00)
    (fun t => (look [16, 26, 27] t, t.sramAt 0x2000)) = some (([0x5A, 0x00, 0x20], 0x00, 0x1, 1), 0x5A) := by decide

/-- V46.16. -/
theorem test_stXInc : ran [0x930D]
    (given [(16, 0x5B), (26, 0x00), (27, 0x20)] 0x00)
    (fun t => (look [16, 26, 27] t, t.sramAt 0x2000)) = some (([0x5B, 0x01, 0x20], 0x00, 0x1, 1), 0x5B) := by decide

/-- V46.17. -/
theorem test_stXDec : ran [0x930E]
    (given [(16, 0x5C), (26, 0x01), (27, 0x20)] 0x00)
    (fun t => (look [16, 26, 27] t, t.sramAt 0x2000)) = some (([0x5C, 0x00, 0x20], 0x00, 0x1, 2), 0x5C) := by decide

/-- V46.18. -/
theorem test_stdY : ran [0x8309]
    (given [(16, 0x5D), (28, 0x00), (29, 0x20)] 0x00)
    (fun t => (look [16, 28, 29] t, t.sramAt 0x2001)) = some (([0x5D, 0x00, 0x20], 0x00, 0x1, 2), 0x5D) := by decide

/-- V46.19. -/
theorem test_stZInc : ran [0x9301]
    (given [(16, 0x5E), (30, 0x00), (31, 0x20)] 0x00)
    (fun t => (look [16, 30, 31] t, t.sramAt 0x2000)) = some (([0x5E, 0x01, 0x20], 0x00, 0x1, 1), 0x5E) := by decide

/-- V46.20. -/
theorem test_stdZ : ran [0x8302]
    (given [(16, 0x5F), (30, 0x00), (31, 0x20)] 0x00)
    (fun t => (look [16, 30, 31] t, t.sramAt 0x2002)) = some (([0x5F, 0x00, 0x20], 0x00, 0x1, 2), 0x5F) := by decide

/-- V46.21. -/
theorem test_lpmR0 : ran [0x95C8] (given [(30, 0x01), (31, 0x00)] 0x00) (look [0, 30, 31]) =
    some ([0x95, 0x01, 0x00], 0x00, 0x1, 3) := by decide

/-- V46.22. -/
theorem test_lpmZ : ran [0x9104] ((given [(30, 0x20), (31, 0x00)] 0x00).placeWord 0x10 0xBEEF) (look [16, 30, 31]) =
    some ([0xEF, 0x20, 0x00], 0x00, 0x1, 3) := by decide

/-- V46.23. -/
theorem test_lpmZInc : ran [0x9105] ((given [(30, 0x21), (31, 0x00)] 0x00).placeWord 0x10 0xBEEF) (look [16, 30, 31]) =
    some ([0xBE, 0x22, 0x00], 0x00, 0x1, 3) := by decide

/-- V46.24. -/
theorem test_xch : ran [0x9304]
    ((given [(16, 0x02), (30, 0x00), (31, 0x20)] 0x00).setSram 0x2000 0x01)
    (fun t => (look [16, 30, 31] t, t.sramAt 0x2000)) = some (([0x01, 0x00, 0x20], 0x00, 0x1, 2), 0x02) := by decide

/-- V46.38. -/
theorem test_xch_sreg : ran [0x9304] (given [(16, 0x80), (30, 0x3F), (31, 0x00)] 0x02) (look [16, 30, 31]) =
    some ([0x02, 0x3F, 0x00], 0x80, 0x1, 2) := by decide

/-- V46.25. -/
theorem test_las : ran [0x9305]
    ((given [(16, 0xF0), (30, 0x00), (31, 0x20)] 0x00).setSram 0x2000 0x0F)
    (fun t => (look [16, 30, 31] t, t.sramAt 0x2000)) = some (([0x0F, 0x00, 0x20], 0x00, 0x1, 2), 0xFF) := by decide

/-- V46.26. -/
theorem test_lac : ran [0x9306]
    ((given [(16, 0x0F), (30, 0x00), (31, 0x20)] 0x00).setSram 0x2000 0xFF)
    (fun t => (look [16, 30, 31] t, t.sramAt 0x2000)) = some (([0xFF, 0x00, 0x20], 0x00, 0x1, 2), 0xF0) := by decide

/-- V46.27. -/
theorem test_lat : ran [0x9307]
    ((given [(16, 0xFF), (30, 0x00), (31, 0x20)] 0x00).setSram 0x2000 0xAA)
    (fun t => (look [16, 30, 31] t, t.sramAt 0x2000)) = some (([0xAA, 0x00, 0x20], 0x00, 0x1, 2), 0x55) := by decide

/-- V46.34. -/
theorem test_elpmZInc : ran [0x9107]
    (({ given [(30, 0xFF), (31, 0xFF)] 0x00 with params := configC1, rampz := 7 }).placeWord 0x3FFFF 0x12AB)
    (fun t => (look [16, 30, 31] t, t.rampz)) = some (([0x12, 0x00, 0x00], 0x00, 0x1, 3), 0) := by decide

/-- V46.35. -/
theorem test_elpmR0 : ran [0x95D8]
    (({ given [(30, 0x01), (31, 0x00)] 0x00 with params := configC1, rampz := 1 }).placeWord 0x8000 0x5566)
    (look [0, 30, 31]) = some ([0x55, 0x01, 0x00], 0x00, 0x1, 3) := by decide

/-- V46.39. -/
theorem test_ldY : ran [0x8108]
    ((given [(28, 0x10), (29, 0x20)] 0x00).setSram 0x2010 0x9A)
    (fun t => (look [16, 28, 29] t, t.sramAt 0x2010)) = some (([0x9A, 0x10, 0x20], 0x00, 0x1, 1), 0x9A) := by decide

/-- V46.40. -/
theorem test_stYDec_unmapped : ran [0x930A]
    (given [(16, 0x77), (28, 0x00), (29, 0x20)] 0x00)
    (fun t => (look [16, 28, 29] t, t.log)) = some (([0x77, 0xFF, 0x1F], 0x00, 0x1, 2), [.unmapped 0x1FFF]) := by decide

/-- The example of R290. -/
theorem test_ldYDec : ran [0x910A]
    ((given [(28, 0x00), (29, 0x21)] 0x00).setSram 0x20FF 0x44)
    (fun t => (look [16, 28, 29] t, t.sramAt 0x20FF)) = some (([0x44, 0xFF, 0x20], 0x00, 0x1, 2), 0x44) := by decide

/-- The example of R293. -/
theorem test_ldZInc : ran [0x9101]
    ((given [(30, 0x00), (31, 0x20)] 0x00).setSram 0x2000 0x45)
    (fun t => (look [16, 30, 31] t, t.sramAt 0x2000)) = some (([0x45, 0x01, 0x20], 0x00, 0x1, 1), 0x45) := by decide

/-- The example of R299. -/
theorem test_stY : ran [0x8308]
    (given [(16, 0x5A), (28, 0x10), (29, 0x20)] 0x00)
    (fun t => (look [16, 28, 29] t, t.sramAt 0x2010)) = some (([0x5A, 0x10, 0x20], 0x00, 0x1, 1), 0x5A) := by decide

/-- The example of R300. -/
theorem test_stYInc : ran [0x9309]
    (given [(16, 0x5A), (28, 0x10), (29, 0x20)] 0x00)
    (fun t => (look [16, 28, 29] t, t.sramAt 0x2010)) = some (([0x5A, 0x11, 0x20], 0x00, 0x1, 1), 0x5A) := by decide

/-- The example of R301. -/
theorem test_stYDec : ran [0x930A]
    (given [(16, 0x5A), (28, 0x11), (29, 0x20)] 0x00)
    (fun t => (look [16, 28, 29] t, t.sramAt 0x2010)) = some (([0x5A, 0x10, 0x20], 0x00, 0x1, 2), 0x5A) := by decide

/-- The example of R303. -/
theorem test_stZ : ran [0x8300]
    (given [(16, 0x5A), (30, 0x00), (31, 0x20)] 0x00)
    (fun t => (look [16, 30, 31] t, t.sramAt 0x2000)) = some (([0x5A, 0x00, 0x20], 0x00, 0x1, 1), 0x5A) := by decide

/-- The example of R305. -/
theorem test_stZDec : ran [0x9302]
    (given [(16, 0x5A), (30, 0x01), (31, 0x20)] 0x00)
    (fun t => (look [16, 30, 31] t, t.sramAt 0x2000)) = some (([0x5A, 0x00, 0x20], 0x00, 0x1, 2), 0x5A) := by decide

/-- The example of R311. -/
theorem test_elpmZ : ran [0x9106] ((given [(30, 0x03), (31, 0x00)] 0x00).placeWord 0x1 0xEF0F) (look [16, 30, 31]) =
    some ([0xEF, 0x03, 0x00], 0x00, 0x1, 3) := by decide

/-! ## I/O: V47 -/

/-- V47.1. -/
theorem test_in : ran [0xB70F] (given [] 0x82) (look [16]) =
    some ([0x82], 0x82, 0x1, 1) := by decide

/-- V47.14. -/
theorem test_in_sph : ran [0xB70E] (given [] 0x00) (look [16]) =
    some ([0x3F], 0x00, 0x1, 1) := by decide

/-- V47.3. -/
theorem test_out : ran [0xBF0F] (given [(16, 0x81)] 0x00) (look [16]) =
    some ([0x81], 0x81, 0x1, 1) := by decide

/-- V47.13. -/
theorem test_out_masked : ran [0xBF0B] (given [(16, 0xFF)] 0x00) (fun t => (look [16] t, t.rampz)) =
    some (([0xFF], 0x00, 0x1, 1), 0) := by decide

/-- V47.6. -/
theorem test_sbi : ran [0x9A2B] ((given [] 0x00).setGpior 5 0x01) (fun t => (look [] t, t.gpiorAt 5)) =
    some (([], 0x00, 0x1, 1), 0x09) := by decide

/-- V47.7. -/
theorem test_cbi : ran [0x982B] ((given [] 0x00).setGpior 5 0x09) (fun t => (look [] t, t.gpiorAt 5)) =
    some (([], 0x00, 0x1, 1), 0x01) := by decide

/-! ## Control flow: V48 -/

/-- V48.1. -/
theorem test_jmp : ran [0x940C, 0x1234] (given [] 0x00) (look []) =
    some ([], 0x00, 0x1234, 3) := by decide

/-- V48.2. -/
theorem test_rjmp : ran [0xCFFF] { given [] 0x00 with pc := 0x10 } (look []) =
    some ([], 0x00, 0x10, 2) := by decide

/-- V48.3. -/
theorem test_rjmp_zero : ran [0xC000] { given [] 0x00 with pc := 0x10 } (look []) =
    some ([], 0x00, 0x11, 2) := by decide

/-- V48.4. -/
theorem test_ijmp : ran [0x9409] (given [(30, 0x20), (31, 0x00)] 0x00) (look [30, 31]) =
    some ([0x20, 0x00], 0x00, 0x20, 2) := by decide

/-- V48.5. -/
theorem test_call : ran [0x940E, 0x0030]
    { given [] 0x00 with pc := 0x10 }
    (fun t => (look [] t, t.sramAt 0x3FFE, t.sramAt 0x3FFF, t.sp)) = some (([], 0x00, 0x30, 3), 0x00, 0x12, 0x3FFD) := by decide

/-- V48.26. -/
theorem test_call_big : ran [0x941E, 0x0000]
    { given [] 0x00 with pc := 0x100, params := configC1 }
    (fun t => (look [] t, t.sramAt 0x3FFD, t.sramAt 0x3FFE, t.sramAt 0x3FFF, t.sp)) = some (([], 0x00, 0x20000, 4), 0x00, 0x01, 0x02, 0x3FFC) := by decide

/-- V48.7. -/
theorem test_rcall : ran [0xDFFF]
    { given [] 0x00 with pc := 0x8 }
    (fun t => (look [] t, t.sramAt 0x3FFE, t.sramAt 0x3FFF, t.sp)) = some (([], 0x00, 0x8, 2), 0x00, 0x09, 0x3FFD) := by decide

/-- V48.28. -/
theorem test_rcall_big : ran [0xD000]
    { given [] 0x00 with pc := 0x12345, params := configC1 }
    (fun t => (look [] t, t.sramAt 0x3FFD, t.sramAt 0x3FFE, t.sramAt 0x3FFF, t.sp)) = some (([], 0x00, 0x12346, 3), 0x01, 0x23, 0x46, 0x3FFC) := by decide

/-- V48.8. -/
theorem test_icall : ran [0x9509]
    { given [(30, 0x20), (31, 0x00)] 0x00 with pc := 0x5 }
    (fun t => (look [30, 31] t, t.sramAt 0x3FFE, t.sramAt 0x3FFF, t.sp)) = some (([0x20, 0x00], 0x00, 0x20, 2), 0x00, 0x06, 0x3FFD) := by decide

/-- V48.9. -/
theorem test_ret : ran [0x9508]
    ((({ given [] 0x00 with sp := 0x3FFD }).setSram 0x3FFE 0x00).setSram 0x3FFF 0x01)
    (fun t => (look [] t, t.sramAt 0x3FFE, t.sramAt 0x3FFF, t.sp)) = some (([], 0x00, 0x1, 4), 0x00, 0x01, 0x3FFF) := by decide

/-- V48.27. -/
theorem test_ret_big : ran [0x9508]
    (((({ given [] 0x00 with sp := 0x3FFC, params := configC1 }).setSram 0x3FFD 0x00).setSram 0x3FFE 0x01).setSram 0x3FFF 0x02)
    (fun t => (look [] t, t.sramAt 0x3FFD, t.sramAt 0x3FFE, t.sramAt 0x3FFF, t.sp)) = some (([], 0x00, 0x102, 5), 0x00, 0x01, 0x02, 0x3FFF) := by decide

/-- V48.10. -/
theorem test_reti : ran [0x9518]
    ((({ given [] 0x00 with sp := 0x3FFD, pmic := ⟨[], [], [], [], 3, 0, 0⟩ }).setSram 0x3FFE 0x00).setSram 0x3FFF 0x21)
    (fun t => (look [] t, t.sramAt 0x3FFE, t.sramAt 0x3FFF, t.sp, t.pmic.status)) = some (([], 0x00, 0x21, 4), 0x00, 0x21, 0x3FFF, 1) := by decide

/-- V48.11. -/
theorem test_reti_no_level : ran [0x9518]
    (({ given [] 0x00 with sp := 0x3FFD }.setSram 0x3FFE 0x00).setSram 0x3FFF 0x21)
    (fun t => (t.pc, t.sp, t.log)) = some (0x21, 0x3FFF, [.retiNoActiveLevel 0]) := by decide

/-- V48.15. -/
theorem test_brbs_back : ran [0xF207] { given [] 0x80 with pc := 0x40 } (look []) =
    some ([], 0x80, 0x1, 2) := by decide

/-- V48.13. -/
theorem test_brbs_not_taken : ran [0xF009] { given [] 0x00 with pc := 0x2 } (look []) =
    some ([], 0x00, 0x3, 1) := by decide

/-- V48.16. -/
theorem test_brbc_forward : ran [0xF5FF] (given [] 0x00) (look []) =
    some ([], 0x00, 0x40, 2) := by decide

/-- V48.21. -/
theorem test_brbc_not_taken : ran [0xF40C] (given [] 0x10) (look []) =
    some ([], 0x10, 0x1, 1) := by decide

/-- V48.17. -/
theorem test_eijmp_small : ran [0x9419] (given [] 0x00) (fun t => (look [] t, t.log)) =
    some (([], 0x00, 0x1, 1), [.eindOnSmallFlash 0]) := by decide

/-- V48.29. -/
theorem test_eijmp : ran [0x9419]
    { given [(30, 0xFF), (31, 0xFF)] 0x00 with params := configC1, eind := 3 }
    (look [30, 31]) = some ([0xFF, 0xFF], 0x00, 0x3FFFF, 2) := by decide

/-- V48.18. -/
theorem test_eicall_small : ran [0x9519] (given [] 0x00) (fun t => (look [] t, t.log)) =
    some (([], 0x00, 0x1, 1), [.eindOnSmallFlash 0]) := by decide

/-- V48.30. -/
theorem test_eicall : ran [0x9519]
    { given [(30, 0x02), (31, 0x00)] 0x00 with pc := 0x100, params := configC1, eind := 1 }
    (fun t => (look [30, 31] t, t.sramAt 0x3FFD, t.sramAt 0x3FFE, t.sramAt 0x3FFF, t.sp)) = some (([0x02, 0x00], 0x00, 0x10002, 3), 0x00, 0x01, 0x01, 0x3FFC) := by decide

/-! ## Stack, skips, miscellaneous, unknown opcodes: V49 -/

/-- V49.1. -/
theorem test_push : ran [0x930F] (given [(16, 0xAB)] 0x00) (fun t => (look [16] t, t.sramAt 0x3FFF, t.sp)) =
    some (([0xAB], 0x00, 0x1, 1), 0xAB, 0x3FFE) := by decide

/-- V49.2. -/
theorem test_pop : ran [0x911F]
    (({ given [] 0x00 with sp := 0x3FFE }).setSram 0x3FFF 0xAB)
    (fun t => (look [17] t, t.sramAt 0x3FFF, t.sp)) = some (([0xAB], 0x00, 0x1, 2), 0xAB, 0x3FFF) := by decide

/-- V49.4. -/
theorem test_cpse_long : ran [0x1000, 0x940C, 0x1234] (given [] 0x00) (look []) =
    some ([], 0x00, 0x3, 3) := by decide

/-- V49.5. -/
theorem test_cpse_no_skip : ran [0x1001, 0x0000] (given [(1, 0x01)] 0x00) (look [1]) =
    some ([0x01], 0x00, 0x1, 1) := by decide

/-- V49.7. -/
theorem test_sbrc : ran [0xFD00, 0x0000] (given [(16, 0xFE)] 0x00) (look [16]) =
    some ([0xFE], 0x00, 0x2, 2) := by decide

/-- V49.8. -/
theorem test_sbrs_no_skip : ran [0xFF07, 0x0000] (given [(16, 0x7F)] 0x00) (look [16]) =
    some ([0x7F], 0x00, 0x1, 1) := by decide

/-- V49.9. -/
theorem test_sbrs_long : ran [0xFF07, 0x9100, 0x2000] (given [(16, 0x80)] 0x00) (look [16]) =
    some ([0x80], 0x00, 0x3, 3) := by decide

/-- V49.10. -/
theorem test_sbic : ran [0x992B, 0x0000] ((given [] 0x00).setGpior 5 0x00) (fun t => (look [] t, t.gpiorAt 5)) =
    some (([], 0x00, 0x2, 2), 0x00) := by decide

/-- V49.12. -/
theorem test_sbic_no_block : ran [0x99A0, 0x0000] (given [] 0x00) (fun t => (look [] t, t.log)) =
    some (([], 0x00, 0x2, 2), [.ioNoBlock 0x14]) := by decide

/-- V49.11. -/
theorem test_sbis_long : ran [0x9B2B, 0x9300, 0x2000]
    ((given [] 0x00).setGpior 5 0x08)
    (fun t => (look [] t, t.gpiorAt 5)) = some (([], 0x00, 0x3, 3), 0x08) := by decide

/-- V49.13. -/
theorem test_nop : ran [0x0000] (given [] 0x00) (look []) =
    some ([], 0x00, 0x1, 1) := by decide

/-- V49.14. -/
theorem test_sleep : ran [0x9588] (given [] 0x00) (look []) =
    some ([], 0x00, 0x1, 1) := by decide

/-- V49.15. -/
theorem test_wdr : ran [0x95A8] (given [] 0x00) (look []) =
    some ([], 0x00, 0x1, 1) := by decide

/-- V49.16. -/
theorem test_break : ran [0x9598] { given [] 0x00 with pc := 0x3 } (fun t => (look [] t, t.breaked)) =
    some (([], 0x00, 0x4, 1), true) := by decide

/-- V49.17. -/
theorem test_des : ran [0x940B] (given [(0, 0x12), (8, 0x34)] 0x00) (look [0, 8]) =
    some ([0x12, 0x34], 0x00, 0x1, 1) := by decide

/-- V49.18. -/
theorem test_spm : ran [0x95E8] (given [] 0x00) (look []) =
    some ([], 0x00, 0x1, 1) := by decide

/-- V49.19. -/
theorem test_spmZInc : ran [0x95F8] (given [(30, 0x10), (31, 0x00)] 0x00) (look [30, 31]) =
    some ([0x10, 0x00], 0x00, 0x1, 1) := by decide

/-- V49.20. -/
theorem test_unknown : ran [0xFFFF] (given [] 0x00) (fun t => (look [] t, t.log)) =
    some (([], 0x00, 0x1, 1), [.unknownOpcode 0 0xFFFF]) := by decide

/-- V49.22. -/
theorem test_unknown_bld : ran [0xF808] (given [] 0x00) (fun t => (look [] t, t.log)) =
    some (([], 0x00, 0x1, 1), [.unknownOpcode 0 0xF808]) := by decide

/-! ## The encoding tables -/

/-- Each check of WellFormed refuses a term: odd registers of MOVW, low registers of MULS, F4 and F5, registers of ADIW and SBIW that
are no pair from r24 on, and displacement 0 of LDD and STD. -/
theorem test_wellFormed_refuses :
    [Instr.movw 1 0, .movw 0 1, .muls 15 16, .muls 16 15, .mulsu 24 16, .mulsu 16 15, .fmul 16 24, .fmuls 15 16, .fmulsu 16 24,
      .cpi 15 0, .sbci 0 1, .subi 15 1, .ori 15 1, .andi 15 1, .ldi 15 1, .adiw 25 1, .adiw 22 1, .sbiw 31 1, .sbiw 16 1,
      .lddZ 0 0, .lddY 0 0, .stdZ 0 0, .stdY 0 0].all (fun i => !i.wellFormed) = true := by decide

/-- The same shapes at the first legal operands are accepted. -/
theorem test_wellFormed_accepts :
    [Instr.movw 0 30, .muls 16 31, .mulsu 16 23, .fmul 23 16, .cpi 16 0, .ldi 31 255, .adiw 24 0, .sbiw 30 63, .lddZ 0 1,
      .stdY 63 31].all Instr.wellFormed = true := by decide

/-- Whether some word matches both rows (R121). -/
def meet (r q : Row) : Bool := (r.pat ^^^ q.pat) &&& (r.mask &&& q.mask) == 0

/-- The later rows that an earlier row meets, by place from 0. -/
def overlapsFrom : List (Row × Nat) → List (Nat × Nat)
  | [] => []
  | (r, n) :: l => (l.filter (fun q => meet r q.1)).map (fun q => (n, q.2)) ++ overlapsFrom l

/-- The table has 101 rows, and only LD Z, LD Y, ST Z and ST Y overlap a later row, their LDD or STD row (R121, R142). -/
theorem test_rows_overlap : rows.length = 101 ∧ overlapsFrom rows.zipIdx = [(23, 27), (24, 28), (25, 29), (26, 30)] := by decide

/-- Byte images: low byte first (R93), a second word read for a two-word form only (R120), and too few bytes refused. -/
theorem test_decodeBytes :
    decodeBytes [0x0F, 0xEF, 0xAA] = .ok (.ldi 16 0xFF, [0xAA]) ∧
    decodeBytes [0x0C, 0x94, 0x34, 0x12] = .ok (.jmp 0x1234, []) ∧
    decodeBytes [0x0C, 0x94, 0x34] = .error .truncated ∧ decodeBytes [0xFF, 0xFF] = .error (.unknownOpcode 0xFFFF) := by decide

/-- Words numbered as the table numbers them, with and without the second word's bits. -/
theorem test_decodeTableWord :
    decodeTableWord 16 0xEF0F = some (.ldi 16 0xFF) ∧ decodeTableWord 32 0x1234940C = some (.jmp 0x1234) ∧
    decodeTableWord 16 0x1234940C = some (.jmp 0) ∧ decodeTableWord 16 0xFFFF = none := by decide

/-- The first step after reset runs a placed instruction: LDI (0xEF0F), and STS with its second word. -/
theorem test_withFetchWord :
    after (step (State.reset.withFetchWord 16 0xEF0F)) (look [16]) = some ([0xFF], 0, 1, 0) ∧
    after (step (State.reset.withFetchWord 32 0x20019200)) (fun t => (t.sramAt 0x2001, t.pc)) = some (0, 2) := by decide

/-! ## Overlap forms, faults and model-specific paths -/

/-- V46.28: `LD r26, X+` logs first and leaves free values in X. -/
theorem test_ld_overlap :
    ran [0x91AD] ((given [(26, 0x00), (27, 0x20)] 0x00).setSram 0x2000 0x33) (fun t => (t.reg 26, t.reg 27, t.log, t.pc)) =
      some (Config.draw 0, Config.draw 1, [.undefinedPointerOverlap 0 0x91AD], 1) := rfl

/-- V46.29: `ST X+, r26` stores a free value and increments X. -/
theorem test_st_overlap :
    ran [0x93AD] (given [(26, 0x00), (27, 0x20)] 0x00) (fun t => (t.sramAt 0x2000, t.reg 26, t.reg 27, t.log)) =
      some (Config.draw 0, 0x01, 0x20, [.undefinedPointerOverlap 0 0x93AD]) := rfl

/-- V47.9: a reserved CPU-block address reads as a free value and is not logged. -/
theorem test_in_reserved : ran [0xB700] State.reset (fun t => (t.reg 16, t.log)) = some (Config.draw 0, []) := rfl

/-- V46.31, V48.24, V48.25, V49.23, V49.25: the faults, with the state they record. -/
theorem test_faults :
    stopped [0x9104] (given [(31, 0x80)] 0x00) (·.pc) = some (.flashReadOutOfRange 0x8000, 0) ∧
    stopped [0x9508] ({ State.reset with sp := 0x3FFE }.setSram 0x3FFF 0x00) (·.sp) = some (.stackOutsideSram 0x4000, 0x4000) ∧
    stopped [0x940E, 0x0030] { State.reset with sp := 0x2000 } (fun t => (t.sp, t.sramAt 0x2000)) =
      some (.stackOutsideSram 0x1FFF, 0x1FFF, 0x02) ∧
    stopped [0x930F] { given [(16, 0x01)] 0x00 with sp := 0x1FFF } (fun t => (t.sp, t.sram)) =
      some (.stackOutsideSram 0x1FFF, 0x1FFF, []) ∧
    stopped [0x1000] { State.reset with pc := 0x3FFF } (·.pc) = some (.fetchOutOfRange 0x4000, 0x3FFF) := by decide

/-- V47.5 and V47.12: the CCP register arms its window for its key only. -/
theorem test_ccp :
    ran [0xBF04] (given [(16, 0x9D)] 0x00) (fun t => (t.ccpReg, t.ccpIoreg, t.ccpSpm)) = some (0x9D, 4, 0) ∧
    ran [0xBF04] (given [(16, 0x55)] 0x00) (fun t => (t.ccpReg, t.ccpIoreg, t.ccpSpm)) = some (0x55, 0, 0) := by decide

/-! ## Interrupts, clocks, scheduler, host -/

/-- The state of section 4 of 95_test_vectors.md: I set, pc 0x10, a NOP there. -/
def waiting (p : Pmic) : State := ({ given [] 0x80 with pc := 0x10, pmic := p }).placeWord 0x10 0x0000

/-- V60.1 and V60.10: the highest enabled level is taken, and IVSEL moves the vector. -/
theorem test_dispatch :
    after (cpuStep (waiting ⟨[3], [], [5], [], 0, 0, 0x07⟩)) (fun t => (t.pc, t.pmic, t.sp, t.instructionCycles)) =
      some (0xA, ⟨[3], [], [], [], 4, 0, 0x07⟩, 0x3FFD, 4) ∧
    after (cpuStep (waiting ⟨[3], [], [], [], 0, 0, 0x41⟩)) (fun t => (t.pc, t.sramAt 0x3FFF, t.interruptWait)) =
      some (0x3806, 0x10, true) := by decide

/-- V60.3, V60.5 and V60.13: not enabled, not above the level in service, or a CCP window open: the NOP runs. -/
theorem test_no_dispatch :
    after (cpuStep (waiting ⟨[], [], [5], [], 0, 0, 0x01⟩)) (·.pc) = some 0x11 ∧
    after (cpuStep (waiting ⟨[], [1], [], [], 4, 0, 0x07⟩)) (·.pc) = some 0x11 ∧
    after (cpuStep { waiting ⟨[3], [], [], [], 0, 0, 0x01⟩ with ccpIoreg := 2 }) (fun t => (t.pc, t.ccpIoreg)) =
      some (0x11, 1) := by decide

/-- V60.9: a second NMI is taken only if `nmi_reentrant`. -/
theorem test_nmi_reentrant :
    after (cpuStep (waiting ⟨[], [], [], [1], 8, 0, 0⟩)) (·.pc) = some 2 ∧
    after (cpuStep { waiting ⟨[], [], [], [1], 8, 0, 0⟩ with params := { configC0 with nmiReentrant := false } }) (·.pc) =
      some 0x11 := by decide

/-- V60.18 and V60.21. -/
theorem test_set_iv_level :
    (setIvLevel 3 3 (setIvLevel 3 1 State.reset)).pmic = ⟨[], [], [3], [], 0, 0, 0⟩ ∧
    (setIvLevel 3 5 State.reset).log = [.invalidIntLevel 3 5] ∧ (setIvLevel 0x80 1 State.reset).log = [.invalidIntLevel 0x80 1] :=
  by decide

/-- V62.3 to V62.5: domain scales as CPU, PER, PER2, PER4. -/
theorem test_scales :
    [0x0C, 0x07, 0x44].map (fun p : Byte => [Domain.cpu, .per, .per2, .per4].map (scaleOf p)) =
      [[4, 4, 4, 4], [8, 8, 4, 2], [512, 512, 512, 512]] := by decide

/-- V62.7 to V62.9: a reserved code, no window, and a set LOCK. -/
theorem test_clk_writes :
    (memWrite 0x41 0x08 { State.reset with ccpIoreg := 3 }).toOption.map (fun t => (t.clk.psctrl, t.log)) =
      some (0, [.clkReservedValue 0x08]) ∧
    (memWrite 0x41 0x01 State.reset).toOption.map (fun t => (t.clk.psctrl, t.log)) = some (0, [.clkLockedWrite 0x41]) ∧
    (memWrite 0x42 0x00 { State.reset with ccpIoreg := 3, clk := ⟨0, 0, 1, 0⟩ }).toOption.map (fun t => (t.clk.lock, t.log)) =
      some (1, []) := by decide

/-- S6 and V63.9: remaining domain ticks are kept, rounded up. -/
theorem test_rescale :
    (Event.rescale 0x03 16 ⟨1, .per, .client 9 0, 5, 32, 8, 1⟩).tick = 24 ∧
    (Event.rescale 0x00 8 ⟨1, .per, .client 9 0, 5, 10, 4, 1⟩).tick = 9 := by decide

/-- V63.2 and V63.6: a tick on the next domain boundary, and no ticks refused. -/
theorem test_schedule :
    (hostSchedule .per 0 1 50 { State.reset with clk := ⟨0, 0x0C, 0, 0⟩, sched := ⟨5, [], none, 1, 1⟩ }).toOption.map
      (fun r => r.2.sched.heap.map (fun e => (e.tick, e.scale))) = some [(8, 4)] ∧
    (hostSchedule .sys 0 0 10 State.reset).toOption = none := by decide

/-- V63.3: by tick, then priority, then insertion. -/
theorem test_earliest :
    (minEvent [⟨0, .cpu, .cpuStep, 100, 10, 1, 0⟩, ⟨1, .sys, .client 9 1, 10, 10, 1, 1⟩, ⟨2, .sys, .client 9 2, 10, 10, 1, 2⟩,
      ⟨3, .sys, .client 9 3, 5, 10, 1, 3⟩]).map Event.handle = some 3 := by decide

/-- V63.4 and V63.5: a callback of 3 ticks at scale 2 goes back 6 later, last in the order; one of 0 is gone. -/
theorem test_end_callback :
    let s := { State.reset with sched := ⟨10, [], some ⟨1, .per, .client 9 0, 5, 10, 2, 1⟩, 2, 7⟩ }
    (endCallback 3 s).sched = ⟨10, [⟨1, .per, .client 9 0, 5, 16, 2, 7⟩], none, 2, 8⟩ ∧
    (endCallback 0 s).sched = ⟨10, [], none, 2, 7⟩ := by decide

/-- R468: no call takes the CPU event away, whatever handle it names; V63.5 and V70.7: an unknown handle is logged. -/
theorem test_unschedule :
    (hostUnschedule 0 State.reset).toOption.map (fun t => (t.sched.heap, t.log)) =
      some ([cpuEvent 0 0], [.unscheduleUnknown 0]) ∧
    ((hostSchedule .sys 0 3 10 State.reset).bind (fun r => hostUnschedule r.1 r.2)).toOption.map
      (fun t => (t.sched.heap, t.log)) = some ([cpuEvent 0 0], []) := by decide

/-- R523: an event that a block asks for from a hook the host calls is its own; a priority below 0 comes before 0 (R462). -/
theorem test_block_event :
    let osc := { Params.defaultOsc with callsCore := true }
    let r := hookReply 1 osc ⟨0, [7], [.schedule .sys 2 3 0, .schedule .sys 4 3 (-1)]⟩ State.reset
    r.toOption.map (fun t => (t.extData 1, t.sched.heap.map (fun e => (e.callback, e.tick)))) =
      some ([7], [(.cpuStep, 1), (.client 1 2, 3), (.client 1 4, 3)]) ∧
    r.toOption.map (fun t => (minEvent (t.sched.heap.drop 1)).map Event.callback) = some (some (.client 1 4)) := by decide

/-- R523 and R506: the host calls the hooks of OSC at its own addresses, and none of the CPU, CLK, PMIC and GPIOR blocks. -/
theorem test_host_hooks :
    (hostSetIo 1 7 0x80 State.reset).isSome = true ∧ (hostSetIo 1 8 0x80 State.reset).isNone = true ∧
    [0, 2, 3, 4, 5].all (fun n => (hostSetIo n 0 0x80 State.reset).isNone && (hostGetIo n 0 State.reset).isNone &&
      (hostExecuteIv n 0 State.reset).isNone) = true := by decide

/-- R10 and R512: the count of a form is the one listed for it, never a listed 0, else the default. -/
theorem test_cycles :
    let p := { configC0 with cycles := [⟨.nop, 1, 0⟩, ⟨.push, 1, 2⟩] }
    p.cyclesOf .nop 1 = 1 ∧ p.cyclesOf .push 1 = 2 ∧ p.cyclesOf .pop 2 = 2 ∧ p.valid = false := by decide

/-- V63.8: a device never reset. -/
theorem test_scheduler_empty :
    (match step (State.blank configC0) with
      | .fault (.schedulerEmpty t) => some t.log
      | _ => none) = some [.schedulerEmpty] := by decide

/-- V70.3 and V70.5. -/
theorem test_host :
    (setPcHost 0x4000 State.reset).2 = false ∧ (setPcHost 0x3FFF State.reset).1.pc = 0x3FFF ∧
    (loadFlashImage [0x0F, 0xEF] State.reset).flashWord 0 = 0xEF0F ∧
    (loadFlashImage [0x0F, 0xEF] State.reset).flashWord 1 = 0xFFFF ∧
    (loadFlashImage [0x0F, 0xEF, 0x00] State.reset).usable = false := by decide

/-- V70.1: reset() clears what it must and keeps SRAM. -/
theorem test_reset :
    (hostReset ({ given [(5, 0x77)] 0xFF with
        sp := 0x2100, pc := 0x123, pmic := ⟨[], [], [2], [], 3, 0, 0x41⟩, clk := ⟨0, 0x07, 1, 0⟩, ccpIoreg := 2, breaked := true
        instructionCycles := 3, sched := ⟨500, [⟨7, .sys, .client 9 0, 10, 600, 1, 7⟩], none, 8, 8⟩ }.setSram 0x2000 0x42)).toOption =
      some { State.reset with sram := [(0x2000, 0x42)], sched := ⟨0, [cpuEvent 8 8], none, 9, 9⟩ } := by decide

/-- C0 and C1 can be built, their masks are those of R9, and the constructed device resets to `State.reset`. -/
theorem test_configurations :
    configC0.valid = true ∧ configC1.valid = true ∧ configC0.withDefaultMasks = configC0 ∧
    configC1.withDefaultMasks = configC1 := by decide

/-! ## Witnesses

For each statement with hypotheses, states and operands that meet them all, at the ends of each range. -/

theorem test_witness_DecodeOfEncode : (Instr.stdY 63 31).wellFormed = true ∧ (Instr.call 0x3FFFFF).wellFormed = true := by decide

theorem test_witness_EncodeOfDecode :
    decode 0x9598 0 = .ok .brk ∧ decode 0x940E 0xFFFF = .ok (.call 0xFFFF) ∧ isLong 0x940E = true ∧ isLong 0x9598 = false := by
  decide

/-- Reset with LDI placed, and with a two-word STS, meets every hypothesis. -/
theorem test_witness_StepRunsDecodedInstruction :
    [State.reset.withFetchWord 16 0xEF0F, State.reset.withFetchWord 32 0x20019200].all (fun s =>
      s.usable && s.fault.isNone && minEvent s.sched.heap == some (cpuEvent 0 0) && (cpuEvent 0 0).callback == .cpuStep &&
      s.instructionCycles == 0 && (s.pmic.arbitrate s.params.nmiReentrant).isNone && decide (0 ≤ s.pc) &&
      decide (s.pc + 1 < s.params.flashWords)) = true ∧
    decode ((State.reset.withFetchWord 16 0xEF0F).flashWord 0) 0 = .ok (.ldi 16 0xFF) ∧
    decode ((State.reset.withFetchWord 32 0x20019200).flashWord 0) ((State.reset.withFetchWord 32 0x20019200).flashWord 1) =
      .ok (.sts 0x2001 0) := by decide

/-- The clauses on counts: a form listed, one listed twice, one not listed. -/
theorem test_witness_cyclesOf :
    let p := { configC0 with cycles := [⟨.brbs, 1, 3⟩, ⟨.push, 1, 2⟩, ⟨.push, 1, 4⟩] }
    (⟨.brbs, 1, 3⟩ : CycleEntry) ∈ p.cycles ∧ p.cycles.all (fun c => c.form != .brbs || c.count == 3) = true ∧
    p.cyclesOf .push 1 = 2 ∧ p.cycles.all (fun c => c.form != .pop) = true := by decide

/-- Erased flash at pc 0 and at the last word. -/
theorem test_witness_UnknownOpcodeRuns :
    [(0 : Int), 0x3FFF].all (fun p => decide (0 ≤ p) && decide (p < configC0.flashWords) &&
      (decode (State.reset.flashWord p.toNat) 0).toOption.isNone) = true := by decide

/-- pc just below, just above, and at the last word with a two-word form in it. -/
theorem test_witness_FetchOutsideFlashFaults :
    (-1 : Int) < 0 ∧ (configC0.flashWords : Int) ≤ 0x4000 ∧ (0x3FFF : Int) + 1 = configC0.flashWords ∧
    isLong ((State.reset.placeWord 0x3FFF 0x940C).flashWord 0x3FFF) = true := by decide

/-- Quiet addresses: an external block (0x50), no block (0x100), the ends of I/O, SRAM, the window, and no region. -/
theorem test_witness_quiet :
    [0x0000, 0x0050, 0x0100, 0x0FFF, 0x1000, 0x2000, 0x3FFF, 0x4000, 0xFF00, 0xFFFFFF].all (fun a : DataAddr =>
      quietAt configC0 a) = true := by decide

/-- LoadsComplete and StoresComplete: pointers at both ends of the space, and each I/O address. -/
theorem test_witness_LoadsComplete :
    quietAt configC0 (State.reset.full .x) = true ∧ quietAt configC0 (State.reset.displaced .y 63) = true ∧
    quietAt configC0 (State.reset.direct 0xFFFF) = true ∧ (List.range 64).all (fun a => quietAt configC0 (BitVec.ofNat 24 a)) = true := by
  decide

/-- UpdatingLoadsComplete and UpdatingStoresComplete: no overlap, and a quiet address before and after the decrement, 0 wrapping to
the top (Full(P) - 1 under an 8-bit mask). -/
theorem test_witness_UpdatingLoadsComplete :
    Ptr.x.overlaps 25 = false ∧ Ptr.x.overlaps 28 = false ∧ Ptr.y.overlaps 27 = false ∧ Ptr.z.overlaps 29 = false ∧
    quietAt configC0 (State.reset.full .z) = true ∧
    quietAt configC0 ((State.reset.setFull .z (State.reset.full .z - 1)).full .z) = true := by decide

/-- OverlapLoadsComplete and OverlapStoresComplete: each register of each pointer. -/
theorem test_witness_OverlapLoadsComplete :
    [(Ptr.x, (26 : Reg)), (.x, 27), (.y, 28), (.y, 29), (.z, 30), (.z, 31)].all (fun p => p.1.overlaps p.2 &&
      quietAt configC0 (State.reset.full p.1) &&
      quietAt configC0 ((State.reset.setFull p.1 (State.reset.full p.1 - 1)).full p.1)) = true := by decide

/-- FlashReads: the last byte of flash and the first beyond it, with and without overlap. -/
theorem test_witness_FlashReads :
    0x7F * 256 + 0xFF < configC0.flashSize ∧ configC0.flashSize ≤ 0x80 * 256 + 0x00 ∧ 7 * 65536 + 0xFFFF < configC1.flashSize ∧
    configC1.flashSize ≤ 8 * 65536 ∧ Ptr.z.overlaps 29 = false ∧ Ptr.z.overlaps 31 = true := by decide

/-- AtomicExchanges: a quiet Full(Z) at SREG, and one at each end of SRAM. -/
theorem test_witness_AtomicExchanges :
    quietAt configC0 ((given [(30, 0x3F)] 0).full .z) = true ∧ configC0.eepromSize ≤ 0x1000 ∧
    inSram configC0 ((given [(31, 0x20)] 0).full .z).toNat = true ∧
    inSram configC0 ((given [(30, 0xFF), (31, 0x3F)] 0).full .z).toNat = true := by decide

/-- The regions of R80 at their first and last addresses, with an EEPROM and an external SRAM. -/
theorem test_witness_DataSpaceRouter :
    [0x0FFF, 0x1000, 0x17FF, 0x1800, 0x1FFF, 0x2000, 0x3FFF, 0x4000, 0xFEFF, 0xFF00, 0xFFFF, 0x10000, 0x1FFFF, 0x20000].map
      (regionOf { configC0 with eepromSize := 0x800, exsramStart := 0x10000, exsramSize := 0x10000 }) =
    [.io, .eeprom, .eeprom, .unmapped, .unmapped, .sram, .sram, .unmapped, .unmapped, .emulator, .emulator, .exsram, .exsram,
      .unmapped] := by decide

/-- DataSpaceRouter in the I/O region: an owner of each kind at the ends of its range, and none. -/
theorem test_witness_ioOwner :
    [0x00, 0x0F, 0x10, 0x2F, 0x30, 0x3F, 0x40, 0x47, 0x48, 0x50, 0x57, 0x58, 0xA0, 0xA2, 0xA3, 0xFFF].map
      (fun a => (ioOwner configC0 a).map (fun o => (o.1, o.2.kind))) =
    [some (4, .gpior), some (4, .gpior), none, none, some (0, .cpu), some (0, .cpu), some (2, .clk), some (2, .clk), none,
      some (1, .external), some (1, .external), none, some (3, .pmic), some (3, .pmic), none, none] := by decide

/-- IoBitInstructions: a quiet address without a block, and the reference GPIOR at its first and last byte. -/
theorem test_witness_IoBitInstructions :
    quietAt configC0 (BitVec.ofNat 24 (0x1F : BitVec 5).toNat) = true ∧
    ioOwner configC0 0x00 = some (4, Params.defaultGpior) ∧ ioOwner configC0 0x0F = some (4, Params.defaultGpior) ∧
    Params.defaultGpior.kind = .gpior := by decide

theorem test_witness_CpuRegistersByIo :
    (0x37 : BitVec 6) ∈ ([0x30, 0x31, 0x32, 0x33, 0x35, 0x36, 0x37] : List (BitVec 6)) := by decide

/-- ClockRegisters and PmicRegisters: a valid device, a window open with LOCK clear and set, codes accepted and reserved. -/
theorem test_witness_ClockRegisters :
    State.reset.params.valid = true ∧ (0 < { State.reset with ccpIoreg := 1 }.ccpIoreg ∧ State.reset.clk.lock.getLsbD 0 = false) ∧
    prescA 0x44 = some 512 ∧ prescA 0x08 = none := by decide

/-- ExtendedJumpResults: both sizes. -/
theorem test_witness_ExtendedJumpResults : 0x20000 < configC1.flashSize ∧ configC0.flashSize ≤ 0x20000 := by decide

/-- CallResults, ReturnUndoesCall, StepsWithoutInstruction: room for a return address, at both ends of SRAM. -/
theorem test_witness_CallResults :
    canPush State.reset 2 = true ∧ canPush { State.reset with sp := 0x2001 } 2 = true ∧
    canPush { State.reset with sp := 0x2002, params := configC1 } 3 = true ∧ configC0.retBytes = 2 ∧ configC1.retBytes = 3 := by
  decide

theorem test_witness_ReturnUndoesCall :
    (pushPc (-2) State.reset).toOption.isSome = true ∧ (pushPc 0x12345 { State.reset with params := configC1 }).toOption.isSome = true := by
  decide

/-- ReturnResults: a return address at both ends of SRAM. -/
theorem test_witness_ReturnResults :
    canPop { State.reset with sp := 0x3FFD } 2 = true ∧ canPop { State.reset with sp := 0x1FFF } 2 = true ∧
    canPop { State.reset with sp := 0x3FFC, params := configC1 } 3 = true := by decide

theorem test_witness_PushPopResults :
    canPush State.reset 1 = true ∧ canPush { State.reset with sp := 0x2000 } 1 = true ∧
    canPop { State.reset with sp := 0x3FFE } 1 = true ∧ canPop { State.reset with sp := 0x1FFF } 1 = true := by decide

/-- StackOutsideSramFaults: just outside either end; then at the second and the third byte of a return address. -/
theorem test_witness_StackOutsideSramFaults :
    canPush { State.reset with sp := 0x2000 } 1 = true ∧ (0x2000 - BitVec.ofNat 16 1 : Word).toNat < 0x2000 ∧
    canPop { State.reset with sp := 0x3FFE } 1 = true ∧ 0x2000 + configC0.sramSize ≤ (0x3FFE + BitVec.ofNat 16 2 : Word).toNat ∧
    canPush { State.reset with sp := 0x2001, params := configC1 } 2 = true ∧ configC1.retBytes = 3 ∧
    (0x2001 - BitVec.ofNat 16 2 : Word).toNat < 0x2000 ∧ 0x20000 < configC1.flashSize ∧
    canPop { State.reset with sp := 0x3FFD, params := configC1 } 2 = true ∧
    0x2000 + configC1.sramSize ≤ (0x3FFD + BitVec.ofNat 16 3 : Word).toNat ∧
    (0x1FFF : Word).toNat < 0x2000 ∧ 0x2000 + configC0.sramSize ≤ (0x4000 : Word).toNat ∧
    0x2000 + configC0.sramSize ≤ ((0x3FFF : Word) + 1).toNat ∧ ((0x1FFE : Word) + 1).toNat < 0x2000 := by decide

/-- SkipResults: the condition false and true, the next word the last of flash, before flash, and beyond it. -/
theorem test_witness_SkipResults :
    ((given [] 0).reg 0 == (given [] 0).reg 1) = true ∧ ((given [(0, 1)] 0).reg 0 == (given [] 0).reg 1) = false ∧
    ((0x3FFE : Int) + 1 < configC0.flashWords) ∧ (configC0.flashWords : Int) ≤ 0x3FFF + 1 ∧ (-2 : Int) + 1 < 0 ∧
    quietAt configC0 (BitVec.ofNat 24 (0x05 : BitVec 5).toNat) = true := by decide

theorem test_witness_CurrentLevelIsHighest :
    (⟨[], [], [], [], 6, 0, 0⟩ : Pmic).status ≠ 0 ∧ (6 : BitVec 4).getLsbD 1 = true ∧ (6 : BitVec 4).getLsbD 2 = true := by decide

theorem test_witness_SetIvLevelPlaces :
    (0 : Int) ≤ 0 ∧ (4 : Int) ≤ 4 ∧ (0x7F : Int) < 0x80 ∧ (4 : Int) < 5 ∧ (0x80 : Int) ≤ 0x80 ∧ (-1 : Int) < 0 ∧
    (setIvLevel (-1) 1 State.reset).log = [.invalidIntLevel (-1) 1] ∧ (setIvLevel 3 (-1) State.reset).log = [.invalidIntLevel 3 (-1)] ∧
    (setIvLevel 0x7F 4 State.reset).pmic.nmi = [0x7F] ∧ (setIvLevel 0x7F 0 (setIvLevel 0x7F 4 State.reset)).pmic.nmi = [] := by decide

/-- ArbitrationOrder: well-formed controllers in which each level in turn is found, and none. -/
theorem test_witness_ArbitrationOrder :
    (⟨[3], [4], [5], [1], 8, 0, 7⟩ : Pmic).wf = true ∧ (⟨[3], [4], [5], [1], 8, 0, 7⟩ : Pmic).arbitrate true = some (.nmi, 1) ∧
    (⟨[3], [4], [5, 9], [], 2, 0, 7⟩ : Pmic).arbitrate false = some (.hi, 5) ∧
    (⟨[3], [4, 9], [], [], 1, 0, 7⟩ : Pmic).arbitrate false = some (.med, 4) ∧
    (⟨[3], [], [], [], 0, 0, 7⟩ : Pmic).arbitrate false = some (.lo, 3) ∧
    (⟨[3], [], [], [], 1, 0, 7⟩ : Pmic).arbitrate false = none := by decide

/-- StepsWithoutInstruction: a debt of 1, and an interrupt to take. -/
theorem test_witness_StepsWithoutInstruction :
    let s := { waiting ⟨[3], [], [], [], 0, 0, 1⟩ with ccpIoreg := 1 }
    0 < { State.reset with instructionCycles := 1 }.instructionCycles ∧ s.instructionCycles = 0 ∧ s.interruptWait = false ∧
    s.sreg.getLsbD 7 = true ∧ s.ccpIoreg ≤ 1 ∧ s.ccpSpm ≤ 1 ∧ s.pmic.arbitrate s.params.nmiReentrant = some (.lo, 3) ∧
    canPush s s.params.retBytes = true ∧ quietIv s.params 3 = true := by decide

theorem test_witness_DomainScales : (prescA 0x00).isSome = true ∧ (prescA 0x47).isSome = true := by decide

/-- RescaleKeepsRemainingTicks: S6, and an event due now. -/
theorem test_witness_RescaleKeepsRemainingTicks :
    8 ≠ scaleOf 0x03 .per ∧ 32 ≤ 16 + 2 * 8 ∧ 16 + 2 * 8 < 32 + 8 ∧ 16 ≤ 32 ∧ 16 ≤ 16 + 0 * 8 ∧ 16 + 0 * 8 < 16 + 8 ∧
    4 = scaleOf 0x03 .per := by decide

/-- SchedulingCalls: the heap of reset, a running callback, a handle held and one not held (the CPU event's own number too), an
external block at a place of the registry, places of blocks of other kinds and of none, and a block that calls the core. -/
theorem test_witness_SchedulingCalls :
    State.reset.sched.running = none ∧ State.reset.sched.wf State.reset.clk.psctrl = true ∧
    (⟨0, [], some (cpuEvent 0 0), 1, 1⟩ : Sched).running ≠ none ∧
    (∃ e ∈ [cpuEvent 0 0, ⟨1, .sys, .client 5 1, -10, 3, 1, 1⟩], e.callback ≠ .cpuStep ∧ e.handle = 1) ∧
    (∀ e ∈ State.reset.sched.heap, e.callback = .cpuStep ∨ e.handle ≠ 0) ∧
    [0, 2, 3, 4, 5].all (fun k => (State.reset.params.registry[k]?).all (·.kind != .external)) = true ∧
    State.reset.params.registry[1]? = some Params.defaultOsc ∧ Params.defaultOsc.kind = .external ∧
    7 < Params.defaultOsc.ioSize ∧ 0 < { Params.defaultOsc with ivCount := 1 }.ivCount ∧
    { Params.defaultOsc with callsCore := true }.callsCore = true := by decide

/-- EarliestEventFirst, the clauses on a step: an event first, an empty heap, a mark of a fault; an event due and one not yet. -/
theorem test_witness_step_and_fireDue :
    State.reset.usable = true ∧ State.reset.fault = none ∧ minEvent State.reset.sched.heap = some (cpuEvent 0 0) ∧
    (State.blank configC0).usable = true ∧ (State.blank configC0).fault = none ∧ (State.blank configC0).sched.heap = [] ∧
    { State.reset with fault := some .schedulerEmpty }.fault = some .schedulerEmpty ∧
    State.reset.sched.currentSysTick < (cpuEvent 0 0).tick ∧ (cpuEvent 0 0).tick ≤ (State.reset.atTick 1).sched.currentSysTick := by
  decide

/-- R16: a step of a device that holds a fault mark answers that fault again. -/
theorem test_fault_again :
    (match step { State.reset with fault := some (.stackOutsideSram 0x1FFF) } with
      | .fault (.stackOutsideSram a t) => some (a, t.pc, t.log)
      | _ => none) = some (0x1FFF, 0, []) := by decide

/-- EarliestEventFirst: distinct numbers; the CPU event and a client's; a running event. -/
theorem test_witness_EarliestEventFirst :
    (cpuEvent 0 0).callback = .cpuStep ∧ (⟨1, .sys, .client 9 1, 10, 1, 1, 1⟩ : Event).callback = .client 9 1 ∧
    (⟨0, [], some (cpuEvent 0 0), 1, 1⟩ : Sched).running = some (cpuEvent 0 0) ∧
    (([cpuEvent 0 0, ⟨1, .sys, .client 9 1, 10, 1, 1, 1⟩] : List Event).map Event.seq).Nodup := by decide

theorem test_witness_HostLoads :
    State.reset.memWf = true ∧ ([0x0F, 0xEF] : List Byte).length % 2 = 0 ∧ ([0x0F, 0xEF] : List Byte).length ≤ 2 * configC0.flashWords ∧
    ([0x0F] : List Byte).length % 2 = 1 ∧ 0x3FFF < configC0.flashWords ∧ configC0.flashWords ≤ 0x4000 := by decide

/-- ResetLeaves: a device between steps, whose blocks call nothing. -/
theorem test_witness_ResetLeaves :
    State.reset.sched.running = none ∧ quietBlocks configC0 = true ∧ configC0.gpior.kind = .gpior := by decide

/-- The invariants hold at reset and its step has a next state. -/
theorem test_witness_invariants :
    State.reset.memWf = true ∧ State.reset.rampsLegal = true ∧ State.reset.pmic.wf = true ∧ State.reset.clk.wf = true ∧
    State.reset.ccpWf = true ∧ State.reset.sched.wf State.reset.clk.psctrl = true ∧
    after (step State.reset) (·.sched.currentSysTick) = some 1 := by decide

/-- StepKeepsScheduler: reset, and each kind of call between steps, answers a state. -/
theorem test_witness_StepKeepsScheduler :
    (hostReset State.reset).toOption.isSome = true ∧ (hostUnschedule 1 State.reset).toOption.isSome = true ∧
    (hostSchedule .cpu 0 1 (-1) State.reset).toOption.isSome = true ∧
    (hostGetIo 1 7 State.reset).any (·.toOption.isSome) = true ∧
    (hostSetIo 1 7 0x03 State.reset).any (·.toOption.isSome) = true ∧
    (hostExecuteIv 5 0 { State.reset with params := { configC0 with further := [⟨.external, 0x200, 16, 0, 1, false⟩] } }).any
      (·.toOption.isSome) = true := by decide

theorem test_witness_SregWritersOnly :
    configC0.valid = true ∧ writesFlags .ret = false ∧ storesData .ret = false ∧ writesFlags (.push 0) = false ∧
    storesData (.push 0) = false ∧ after (exec (.push 0) State.reset) (·.sreg) = some 0 := by decide

theorem test_witness_OnlyRetiAndBreak :
    after (exec .reti { State.reset with sp := 0x3FFD, pmic := ⟨[], [], [], [], 3, 0, 0⟩ }) (·.pmic.status) = some 1 ∧
    after (exec .brk State.reset) (·.breaked) = some true ∧ after (exec .nop State.reset) (·.breaked) = some false := by decide

end Sys2Proof.Tests
end

section
/-! PROOFS. The statements on what a step is (00_scope.md, 60_exceptions.md R460 to R469, 70_reset_and_hazards.md R510 to
R512): which event fires, what firing it does, and what no step changes. -/

namespace Sys2Proof.Machine

open Sys2Proof

/-! ## Frames of the operations that branch -/

/-- `set_iv_level` changes the pending sets or adds a record (R425). -/
theorem setIvLevel_frame (iv level : Int) (s : State) :
    setIvLevel iv level s =
      { s with pmic := (setIvLevel iv level s).pmic, log := (setIvLevel iv level s).log } := by
  unfold setIvLevel
  split
  · split <;> rfl
  · rfl

/-- RETI's level clear changes STATUS or adds a record (R434). -/
theorem pmicRetiClear_frame (s : State) :
    pmicRetiClear s = { s with pmic := (pmicRetiClear s).pmic, log := (pmicRetiClear s).log } := by
  unfold pmicRetiClear
  split <;> rfl

/-- The end of a callback changes the scheduler only (R463). -/
theorem endCallback_frame (n : Nat) (s : State) : endCallback n s = s.setSched (endCallback n s).sched := by
  cases hr : s.sched.running with
  | none => simp only [endCallback, hr]; rfl
  | some e => simp only [endCallback, hr]; split <;> rfl

/-! ## The earliest event (R462) -/

/-- The order of R462, spelled out. -/
theorem Event.before_iff (e f : Event) : e.before f = true ↔
    e.tick < f.tick ∨ (e.tick = f.tick ∧ (e.priority < f.priority ∨ (e.priority = f.priority ∧ e.seq < f.seq))) := by
  simp [Event.before]

theorem minEvent_eq_none_iff (h : List Event) : minEvent h = none ↔ h = [] := by
  cases h with
  | nil => simp [minEvent]
  | cons e h =>
    cases hm : minEvent h with
    | none => simp [minEvent, hm]
    | some m => cases hb : e.before m <;> simp [minEvent, hm, hb]

theorem minEvent_cons_some {e m : Event} {h : List Event} (hm : minEvent h = some m) :
    minEvent (e :: h) = some (if e.before m then e else m) := by
  simp only [minEvent, hm]
  split <;> rfl

theorem minEvent_mem {h : List Event} {m : Event} (hm : minEvent h = some m) : m ∈ h := by
  induction h generalizing m with
  | nil => simp [minEvent] at hm
  | cons e h ih =>
    cases hh : minEvent h with
    | none => simp_all [minEvent]
    | some k =>
      rw [minEvent_cons_some hh, Option.some_inj] at hm
      subst hm
      split
      · exact List.mem_cons_self
      · exact List.mem_cons_of_mem e (ih hh)

/-- No event of the heap comes before the chosen one. -/
theorem not_before_minEvent {h : List Event} {m : Event} (hm : minEvent h = some m) : ∀ f ∈ h, ¬ f.before m = true := by
  induction h generalizing m with
  | nil => simp
  | cons e h ih =>
    cases hh : minEvent h with
    | none =>
      obtain rfl : h = [] := (minEvent_eq_none_iff h).mp hh
      simp_all [minEvent, Event.before_iff]
    | some k =>
      rw [minEvent_cons_some hh, Option.some_inj] at hm
      subst hm
      intro f hf
      have hk : f = e ∨ ¬ f.before k = true := (List.mem_cons.mp hf).imp_right (ih hh f)
      split
      · next he =>
        rcases hk with rfl | hk
        · simp [Event.before_iff]
        · rw [Event.before_iff] at *; omega
      · next he =>
        rcases hk with rfl | hk
        · exact he
        · exact hk

/-- Two events with different insertion numbers are ordered, one way or the other. -/
theorem before_of_not_before {e f : Event} (hseq : f.seq ≠ e.seq) (h : ¬ f.before e = true) : e.before f = true := by
  rw [Event.before_iff] at *; omega

/-- With distinct insertion numbers the chosen event is the one before every other. -/
theorem minEvent_eq_some_iff {h : List Event} (hnd : (h.map Event.seq).Nodup) (e : Event) :
    minEvent h = some e ↔ e ∈ h ∧ ∀ f ∈ h, f ≠ e → e.before f = true := by
  constructor
  · intro hm
    refine ⟨minEvent_mem hm, fun f hf hne => before_of_not_before (fun hseq => hne ?_) (not_before_minEvent hm f hf)⟩
    exact List.inj_on_of_nodup_map hnd hf (minEvent_mem hm) hseq
  · rintro ⟨he, hfirst⟩
    cases hm : minEvent h with
    | none => simp [(minEvent_eq_none_iff h).mp hm] at he
    | some m =>
      by_contra hne
      exact not_before_minEvent hm e he (hfirst m (minEvent_mem hm) (by simpa using hne))

/-! ## The scheduler step (R463, R469) -/

theorem fireDue_zero (s : State) : fireDue 0 s = .next s := rfl

theorem fireDue_empty (n : Nat) {s : State} (hm : minEvent s.sched.heap = none) : fireDue n s = .next s := by
  cases n with
  | zero => rfl
  | succ n => simp [fireDue, hm]

theorem fireDue_due (n : Nat) {s : State} {e : Event} (hm : minEvent s.sched.heap = some e)
    (ht : e.tick ≤ s.sched.currentSysTick) : fireDue (n + 1) s = andThen (fireEvent e s) (fireDue n) := by
  simp [fireDue, hm, ht]

theorem fireDue_later (n : Nat) {s : State} {e : Event} (hm : minEvent s.sched.heap = some e)
    (ht : s.sched.currentSysTick < e.tick) : fireDue (n + 1) s = .next s := by
  simp [fireDue, hm, ht]

/-- A step of a device that holds a fault mark answers that fault (R16). -/
theorem step_faulted {s : State} {m : ModelFault} (hu : s.usable = true) (hf : s.fault = some m) :
    step s = .fault (faultOf m s) := by
  simp [step, schedulerStep, hu, hf]

/-- A step with an empty heap logs and faults (R469). -/
theorem step_empty {s : State} (hu : s.usable = true) (hf : s.fault = none) (hm : minEvent s.sched.heap = none) :
    step s = .fault (raise .schedulerEmpty (s.record .schedulerEmpty)) := by
  simp [step, schedulerStep, hu, hf, hm]

/-- A step moves time to the earliest event, fires it, and then fires what else is due. -/
theorem step_fires {s : State} {e : Event} (hu : s.usable = true) (hf : s.fault = none)
    (hm : minEvent s.sched.heap = some e) :
    step s = andThen (fireEvent e (s.atTick e.tick)) (fireDue (s.sched.heap.length - 1)) := by
  have hlen : s.sched.heap.length = (s.sched.heap.length - 1) + 1 := by
    have := List.length_pos_of_mem (minEvent_mem hm)
    omega
  have hstep : step s = fireDue s.sched.heap.length (s.atTick e.tick) := by
    simp [step, schedulerStep, hu, hf, hm]
  rw [hstep, hlen]
  exact fireDue_due _ hm (Nat.le_refl _)

/-- Only a usable device without a fault mark has a next state. -/
theorem live_of_step_next {s t : State} (h : step s = .next t) : s.usable = true ∧ s.fault = none := by
  cases hu : s.usable with
  | false => simp [step, schedulerStep, hu] at h
  | true =>
    cases hf : s.fault with
    | some m => simp [step_faulted hu hf] at h
    | none => exact ⟨rfl, rfl⟩

/-! ## What no step changes -/

/-- What a device is apart from its run: the program, the parameters, the fault mark, and whether it can be used. -/
def State.device (s : State) : Memory × Params × Option ModelFault × Bool := (s.flash, s.params, s.fault, s.usable)

/-- Every named update keeps the device. -/
theorem keepsStep_device (x : Memory × Params × Option ModelFault × Bool) : KeepsStep (fun s => s.device = x) where
  record _ _ h := h
  draw _ h := h
  reg _ _ _ h := h
  sreg _ _ h := h
  pc _ _ h := h
  sp _ _ h := h
  rampd _ _ h := h
  rampx _ _ h := h
  rampy _ _ h := h
  rampz _ _ h := h
  eind _ _ h := h
  cycles _ _ h := h
  ccp _ _ h := h
  sram _ _ _ _ h := h
  gpior _ _ _ h := h
  ext _ _ _ h := h
  ivLevel s iv l h := by rw [setIvLevel_frame]; exact h
  intpri _ _ h := h
  pmicCtrl _ _ h := h
  clkCtrl _ _ h := h
  clkLock _ _ h := h
  clkRtc _ _ h := h
  psctrl _ _ _ h := h
  schedule s d c n p call hd t hs h := by
    obtain ⟨-, -, -, l, rfl⟩ := schedule_ok hs
    exact h
  unschedule s hd t hs h := by
    obtain ⟨-, rfl | rfl⟩ := unschedule_ok hs <;> exact h
  wait _ _ h := h
  breaked _ _ h := h
  countDown _ h := h
  acknowledge _ _ _ h := h
  retiClear s h := by rw [pmicRetiClear_frame]; exact h
  tick _ _ _ h := h
  fire _ _ _ _ h := h
  endCallback s n h := by rw [endCallback_frame]; exact h

theorem device_step {s t : State} (h : step s = .next t) : t.device = s.device := step_keeps (keepsStep_device s.device) h rfl

/-- Settles O58: every update a step is made of keeps the device, and a step with a next state starts from a live one. -/
theorem stepKeepsProgramAndDevice : Obligations.StepKeepsProgramAndDevice := by
  unfold Obligations.StepKeepsProgramAndDevice
  intro s t h
  obtain ⟨hu, hf⟩ := live_of_step_next h
  have hd := device_step h
  simp only [State.device, Prod.mk.injEq] at hd
  obtain ⟨hflash, hparams, hfault, husable⟩ := hd
  exact ⟨hflash, hparams, hf, hfault.trans hf, hu, husable.trans hu⟩

/-! ## Firing an event (R463, R467) -/

/-- The state in which a callback runs: its event out of the heap and running. -/
def State.withRunning (s : State) (e : Event) : State :=
  s.setSched { s.sched with heap := s.sched.heap.erase e, running := some e }

theorem fireEvent_cpuStep {e : Event} (s : State) (hc : e.callback = .cpuStep) :
    fireEvent e s = andThen (cpuStep (s.withRunning e)) (fun t => .next (endCallback 1 t)) := by
  simp only [fireEvent, hc]
  rfl

/-- Firing a client's event serves the calls its callback answers and ends the callback, or gives the fault of a call. -/
theorem fireEvent_client {e : Event} {owner tag : Nat} (s : State) (hc : e.callback = .client owner tag) :
    let r := Config.extCallback owner tag (s.extData owner) s.peek
    fireEvent e s = finish (serveAll owner r.calls ((s.withRunning e).setExt owner r.data)) (endCallback r.ticks) := by
  simp only [fireEvent, hc]
  rfl

theorem serveAll_cons (o : Nat) (c : ServiceCall) (cs : List ServiceCall) (s : State) :
    serveAll o (c :: cs) s = (serve o c s).bind (serveAll o cs) := rfl

/-- Calls of `set_iv_level` alone are all served, and change the pending sets and the log only. -/
theorem serveAll_setIvLevel (o : Nat) {cs : List ServiceCall} (hcs : ∀ c ∈ cs, ∃ iv level, c = .setIvLevel iv level)
    (s : State) : ∃ t, serveAll o cs s = .ok t ∧ t = { s with pmic := t.pmic, log := t.log } := by
  induction cs generalizing s with
  | nil => exact ⟨s, rfl, rfl⟩
  | cons c cs ih =>
    obtain ⟨iv, level, rfl⟩ := hcs c List.mem_cons_self
    obtain ⟨t, ht, hframe⟩ := ih (fun c hc => hcs c (List.mem_cons_of_mem _ hc)) (setIvLevel iv level s)
    refine ⟨t, ht, ?_⟩
    rw [setIvLevel_frame] at hframe
    exact hframe

/-- While a callback runs, `schedule` and `unschedule` are refused (R467). -/
theorem serve_running_error (o : Nat) {c : ServiceCall} {s : State} (hr : s.sched.running.isSome = true)
    (hc : ¬ ∃ iv level, c = .setIvLevel iv level) : ∃ f, serve o c s = .error f := by
  cases c with
  | setIvLevel iv level => exact absurd ⟨iv, level, rfl⟩ hc
  | schedule d tag n pri =>
    by_cases hn : n = 0
    · exact ⟨_, by simp only [serve, schedule, if_pos hn]; rfl⟩
    · exact ⟨_, by simp only [serve, schedule, if_neg hn, if_pos hr]; rfl⟩
  | unschedule h => exact ⟨_, by simp only [serve, unschedule, if_pos hr]; rfl⟩

/-- While a callback runs, a call other than `set_iv_level` makes the callback fault (R467). -/
theorem serveAll_running_error (o : Nat) {cs : List ServiceCall} {s : State} (hr : s.sched.running.isSome = true)
    (hcs : ¬ ∀ c ∈ cs, ∃ iv level, c = .setIvLevel iv level) : ∃ f, serveAll o cs s = .error f := by
  induction cs generalizing s with
  | nil => simp at hcs
  | cons c cs ih =>
    by_cases hc : ∃ iv level, c = .setIvLevel iv level
    · obtain ⟨iv, level, rfl⟩ := hc
      have hr' : (setIvLevel iv level s).sched.running.isSome = true := by rw [setIvLevel_frame]; exact hr
      refine ih hr' fun h => hcs fun c hc => ?_
      rcases List.mem_cons.mp hc with rfl | hc
      · exact ⟨iv, level, rfl⟩
      · exact h c hc
    · obtain ⟨f, hf⟩ := serve_running_error o hr hc
      exact ⟨f, by rw [serveAll_cons, hf]; rfl⟩

/-- The end of a callback that answered `n` ticks (R463): the running event dropped for 0, else back in the heap. -/
def State.putBack (n : Nat) (t : State) (r : Event) : State :=
  t.setSched { t.sched with
    running := none
    heap := t.sched.heap ++ if n = 0 then [] else [{ r with tick := r.tick + n * r.scale, seq := t.sched.nextSeq }]
    nextSeq := t.sched.nextSeq + if n = 0 then 0 else 1 }

theorem endCallback_running (n : Nat) {s : State} {r : Event} (hr : s.sched.running = some r) :
    endCallback n s = State.putBack n s r := by
  simp only [endCallback, hr, State.putBack]
  split
  · simp only [List.append_nil, Nat.add_zero]
  · rfl

/-- Settles O50: the chosen event is the least of the heap, and a step and a firing are read off their definitions. -/
theorem earliestEventFirst : Obligations.EarliestEventFirst := by
  unfold Obligations.EarliestEventFirst
  refine ⟨fun h hnd => ⟨minEvent_eq_none_iff h, fun e => ?_⟩, fun s hu => ⟨fun m hf => ?_, fun hf he => ?_, fun e => ?_⟩,
    fun n s => ⟨fireDue_zero s, fun he => ?_, fun e hm => ⟨fireDue_later n hm, fireDue_due n hm⟩⟩, fun e s => ?_⟩
  · simp only [minEvent_eq_some_iff hnd, Event.before_iff]
  · rw [step_faulted hu hf]
    cases m <;> rfl
  · exact ⟨step_empty hu hf ((minEvent_eq_none_iff _).mpr he), rfl⟩
  · exact step_fires hu
  · exact fireDue_empty _ ((minEvent_eq_none_iff _).mpr he)
  · refine ⟨fun n r => endCallback_running n, fireEvent_cpuStep s, fun owner tag hc => ?_⟩
    have hfire := fireEvent_client s hc
    by_cases hl : ∀ c ∈ (Config.extCallback owner tag (s.extData owner) s.peek).calls, ∃ iv level, c = .setIvLevel iv level
    · obtain ⟨t, ht, hframe⟩ := serveAll_setIvLevel owner hl ((s.withRunning e).setExt owner _)
      have hr : t.sched.running = some e := by rw [hframe]; rfl
      refine .inl ⟨hl, t, ht, hframe, ?_⟩
      rw [hfire, ht]
      exact congrArg _ (endCallback_running _ hr)
    · obtain ⟨f, hf⟩ := serveAll_running_error owner (s := (s.withRunning e).setExt owner _) rfl hl
      exact .inr ⟨hl, f, by rw [hfire, hf]; rfl⟩

/-! ## The CPU step (R510, R512) -/

theorem andThen_assoc (r : Result) (j k : State → Result) :
    andThen (andThen r j) k = andThen r (fun s => andThen (j s) k) := by
  cases r <;> rfl

/-- The second word of a form inside flash: the next word of a two-word form, 0 for a one-word form. -/
theorem fetchSecond_ok {op : Word} {s : State} (h0 : 0 ≤ s.pc) (hlong : isLong op = true → s.pc + 1 < s.params.flashWords) :
    fetchSecond op s = .ok (if isLong op = true then s.flashWord (s.pc + 1).toNat else 0) := by
  unfold fetchSecond
  split
  · next hl => exact fetchWord_ok (by omega) (hlong hl)
  · rfl

/-- Words in flash that decode to an instruction are executed as it. -/
theorem executeNext_decode {s : State} {i : Instr} (h0 : 0 ≤ s.pc) (h1 : s.pc < s.params.flashWords)
    (hlong : isLong (s.flashWord s.pc.toNat) = true → s.pc + 1 < s.params.flashWords)
    (hd : decode (s.flashWord s.pc.toNat)
      (if isLong (s.flashWord s.pc.toNat) = true then s.flashWord (s.pc + 1).toNat else 0) = .ok i) :
    executeNext s = exec i s := by
  simp only [executeNext, fetchWord_ok h0 h1, fetchSecond_ok h0 hlong, hd]

/-- Without a vector to take, nothing is dispatched (R430). -/
theorem tryDispatch_none {s : State} (h : s.dispatchable = true → s.pmic.arbitrate s.params.nmiReentrant = none) :
    tryDispatch s = .ok s := by
  unfold tryDispatch
  split
  · next hd => simp only [h hd]
  · rfl

/-- The state in which the CPU event's callback meets the next instruction: time moved to the event, the event running, and the
CPU step begun. -/
def State.atCpuStep (s : State) (e : Event) : State := beginCpuStep ((s.atTick e.tick).withRunning e)

/-- A CPU step that dispatches nothing and owes no debt runs the next instruction and pays its first tick. -/
theorem cpuStep_executes {s : State} (hd : tryDispatch (beginCpuStep s) = .ok (beginCpuStep s))
    (hc : s.instructionCycles = 0) :
    cpuStep s = andThen (executeNext (beginCpuStep s)) (fun t => .next (payTick (endInstruction t))) := by
  simp only [cpuStep, hd]
  exact if_pos hc

/-- A step whose earliest event is the CPU event, with nothing to dispatch and no debt, runs the next instruction, ends the CPU
event's callback with one tick, and fires what else is due. -/
theorem step_executes {s : State} {e : Event} (hu : s.usable = true) (hf : s.fault = none)
    (hm : minEvent s.sched.heap = some e) (hcb : e.callback = .cpuStep) (hc : s.instructionCycles = 0)
    (hd : tryDispatch (s.atCpuStep e) = .ok (s.atCpuStep e)) :
    step s = andThen (andThen (executeNext (s.atCpuStep e)) (fun t => .next (endCallback 1 (payTick (endInstruction t)))))
      (fireDue (s.sched.heap.length - 1)) := by
  rw [step_fires hu hf hm, fireEvent_cpuStep _ hcb, cpuStep_executes hd hc, andThen_assoc (executeNext _)]
  rfl

/-! ## Cycle counts (R10, R512) -/

/-- An entry of `cycles` that names a form and its default count; an entry of 0 is never used. -/
def listedFor (p : Params) (f : Form) (n : Nat) (c : CycleEntry) : Prop :=
  c ∈ p.cycles ∧ c.form = f ∧ c.default = n ∧ c.count ≠ 0

/-- A count is that of an entry listed for the form, or the default of a form that none is listed for. -/
theorem cyclesOf_cases (p : Params) (f : Form) (n : Nat) :
    (∃ c, listedFor p f n c ∧ p.cyclesOf f n = c.count) ∨ ((∀ c, ¬ listedFor p f n c) ∧ p.cyclesOf f n = n) := by
  unfold Params.cyclesOf
  split
  · next c hfind =>
    have hnames := List.find?_some hfind
    simp only [Bool.and_eq_true, beq_iff_eq, bne_iff_ne] at hnames
    obtain ⟨⟨hform, hdefault⟩, hcount⟩ := hnames
    exact .inl ⟨c, ⟨List.mem_of_find?_eq_some hfind, hform, hdefault, hcount⟩, rfl⟩
  · next hfind =>
    refine .inr ⟨fun c ⟨hmem, hform, hdefault, hcount⟩ => ?_, rfl⟩
    have := List.find?_eq_none.mp hfind c hmem
    simp [hform, hdefault, hcount] at this

/-- Settles O6: nothing is dispatched, so the CPU event's callback runs the decoded instruction. -/
theorem stepRunsDecodedInstruction : Obligations.StepRunsDecodedInstruction := by
  unfold Obligations.StepRunsDecodedInstruction
  refine ⟨?_, fun p f n => ?_⟩
  · rintro s u e op w i hu hf hm hcb hc rfl harb h0 h1 rfl hlong rfl hd
    have hdispatch : tryDispatch (s.atCpuStep e) = .ok (s.atCpuStep e) := by
      refine tryDispatch_none fun hdis => ?_
      simp only [State.dispatchable, Bool.and_eq_true, beq_iff_eq, Bool.not_eq_true'] at hdis
      obtain ⟨⟨⟨⟨-, hwait⟩, hI⟩, hio⟩, hspm⟩ := hdis
      exact harb hwait hI (Nat.sub_eq_zero_iff_le.mp hio) (Nat.sub_eq_zero_iff_le.mp hspm)
    have hexec : executeNext (s.atCpuStep e) = exec i (s.atCpuStep e) := executeNext_decode h0 h1 hlong hd
    rw [step_executes hu hf hm hcb hc hdispatch, hexec]
    refine congrArg (andThen · _) (congrArg (andThen _) (funext fun t => ?_))
    cases hr : t.sched.running <;> simp [endCallback, payTick, endInstruction, hr, State.setSched]
  · obtain ⟨c, hc, hcount⟩ | ⟨hnone, hcount⟩ := cyclesOf_cases p f n
    · obtain ⟨-, -, -, hne⟩ := id hc
      exact ⟨fun hno => absurd hc (hno c), fun c' _ hsame => hcount.trans (hsame c hc), fun _ => ⟨c, hc, hcount⟩,
        fun _ => by rwa [hcount]⟩
    · exact ⟨fun _ => hcount, fun c hc _ => absurd hc (hnone c), fun ⟨c, hc⟩ => absurd hc (hnone c), fun hn => by rwa [hcount]⟩

end Sys2Proof.Machine
end

section
/-! PROOFS. The statements on the state: what every step keeps of the memories and the registers, what the host's loads and
its reset leave, the places of SREG and of the addresses, and which instructions write SREG, STATUS and `breaked`
(10_state.md). -/

namespace Sys2Proof.Machine

open Sys2Proof

/-! ## What the scheduler's calls leave (R464, R465) -/

theorem schedule_frame {d : Domain} {cb : Callback} {n : Nat} {pri : Int} {call : ServiceCall} {h : Nat} {s t : State}
    (hs : schedule d cb n pri call s = .ok (h, t)) : t = { s with log := t.log, sched := t.sched } := by
  obtain ⟨-, -, -, l, rfl⟩ := schedule_ok hs
  rfl

theorem unschedule_frame {h : Nat} {s t : State} (hs : unschedule h s = .ok t) :
    t = { s with log := t.log, sched := t.sched } := by
  obtain ⟨-, rfl | rfl⟩ := unschedule_ok hs <;> rfl

/-! ## The form of the memories (R53, R54, R85) -/

theorem memWf_iff (s : State) : s.memWf = true ↔
    Memory.wf none s.sram = true ∧ (∀ c ∈ s.sram, inSram s.params c.1 = true) ∧
      Memory.wf (some flashErased) s.flash = true := by
  simp [State.memWf, and_assoc]

/-- A write of a byte of internal SRAM keeps both memories canonical. -/
theorem memWf_setSram {s : State} {a : Nat} (v : Byte) (ha : inSram s.params a = true) (h : s.memWf = true) :
    (s.setSram a v).memWf = true := by
  obtain ⟨hsram, hin, hflash⟩ := (memWf_iff s).mp h
  refine (memWf_iff _).mpr ⟨setSram_wf s a v hsram, fun c hc => ?_, hflash⟩
  rcases mem_memSet hc with rfl | hc
  · exact ha
  · exact hin c hc

/-- SRAM is the only memory a step writes, and the router sends it internal addresses only; every other update leaves both
memories and the parameters as they are. -/
theorem keepsStep_memWf : KeepsStep (fun s => s.memWf = true) := by
  constructor
  case toKeeps =>
    constructor
    case sram => exact fun s a v ha h => memWf_setSram v ha h
    case ivLevel => exact fun s iv l h => by rw [setIvLevel_frame]; exact h
    case schedule => exact fun s d c n p call hd t hs h => by rw [schedule_frame hs]; exact h
    case unschedule => exact fun s hd t hs h => by rw [unschedule_frame hs]; exact h
    all_goals intros; assumption
  case retiClear => exact fun s h => by rw [pmicRetiClear_frame]; exact h
  case endCallback => exact fun s n h => by rw [endCallback_frame]; exact h
  all_goals intros; assumption

/-- Settles O54: every update a step is made of keeps the canonical form. -/
theorem stepKeepsMemoryForm : Obligations.StepKeepsMemoryForm := by
  unfold Obligations.StepKeepsMemoryForm
  exact fun s t hs h => step_keeps keepsStep_memWf h hs

/-! ## The forms of the registers (R45, R48, R440, R450 to R453) -/

theorem rampsLegal_iff (s : State) : s.rampsLegal = true ↔
    s.rampd &&& s.params.rampdMask = s.rampd ∧ s.rampx &&& s.params.rampxMask = s.rampx ∧
    s.rampy &&& s.params.rampyMask = s.rampy ∧ s.rampz &&& s.params.rampzMask = s.rampz ∧
    s.eind &&& s.params.eindMask = s.eind := by
  simp [State.rampsLegal, and_assoc]

theorem Clk.wf_iff (c : Clk) : c.wf = true ↔
    c.ctrl &&& 0x07 = c.ctrl ∧ c.psctrl &&& 0x7F = c.psctrl ∧ (prescA c.psctrl).isSome = true ∧
      c.lock &&& 0x01 = c.lock := by
  simp [Clk.wf, and_assoc]

theorem ccpWf_iff (s : State) : s.ccpWf = true ↔ s.ccpIoreg ≤ 4 ∧ s.ccpSpm ≤ 4 := by
  simp [State.ccpWf]

/-- A masked byte has no bit outside its mask. -/
theorem and_mask (v m : Byte) : v &&& m &&& m = v &&& m := by rw [BitVec.and_assoc, BitVec.and_self]

/-- The bit that PSCTRL does not store is none of the code's (R450, R451). -/
theorem prescA_and_mask (v : Byte) : prescA (v &&& 0x7F) = prescA v := by
  have hcode : (v &&& 0x7F).extractLsb' 2 5 = v.extractLsb' 2 5 := by
    rw [BitVec.extractLsb'_and]
    exact BitVec.and_allOnes
  unfold prescA
  rw [hcode]

/-- The invariant of the registers that hold fewer values than their bits allow. -/
def State.registersWf (s : State) : Prop := s.rampsLegal = true ∧ s.clk.wf = true ∧ s.ccpWf = true

theorem registersWf_writeCcp {s : State} (v : Byte) (h : s.registersWf) : (writeCcp v s).registersWf := by
  obtain ⟨hramps, hclk, hccp⟩ := h
  obtain ⟨hio, hspm⟩ := (ccpWf_iff s).mp hccp
  refine ⟨hramps, hclk, (ccpWf_iff _).mpr ⟨?_, ?_⟩⟩
  · show (if v = 0x9D then 4 else s.ccpIoreg) ≤ 4
    split <;> omega
  · show (if v = 0xD8 then 4 else s.ccpSpm) ≤ 4
    split <;> omega

theorem registersWf_ccpCountDown {s : State} (h : s.registersWf) : (ccpCountDown s).registersWf := by
  obtain ⟨hramps, hclk, hccp⟩ := h
  obtain ⟨hio, hspm⟩ := (ccpWf_iff s).mp hccp
  exact ⟨hramps, hclk, (ccpWf_iff _).mpr ⟨Nat.le_trans (Nat.sub_le ..) hio, Nat.le_trans (Nat.sub_le ..) hspm⟩⟩

/-- LOCK only ever gains its one bit (R453). -/
theorem clk_wf_lock {c : Clk} (v : Byte) (h : c.wf = true) : { c with lock := c.lock ||| (v &&& 0x01) }.wf = true := by
  obtain ⟨hctrl, hps, hcode, hlock⟩ := (Clk.wf_iff c).mp h
  refine (Clk.wf_iff _).mpr ⟨hctrl, hps, hcode, ?_⟩
  show (c.lock ||| (v &&& 0x01)) &&& 0x01 = c.lock ||| (v &&& 0x01)
  rw [BitVec.and_comm, BitVec.and_or_distrib_left, BitVec.and_comm, hlock, BitVec.and_comm, and_mask]

theorem registersWf_setClk {s : State} {c : Clk} (h : s.registersWf) (hc : s.clk.wf = true → c.wf = true) :
    (s.setClk c).registersWf :=
  let ⟨hramps, hclk, hccp⟩ := h
  ⟨hramps, hc hclk, hccp⟩

/-- Every write to one of these registers masks its value, checks the prescaler code, or sets a counter to 4; every other
update leaves them as they are. -/
theorem keepsStep_registersWf : KeepsStep State.registersWf := by
  constructor
  case toKeeps =>
    constructor
    case rampd | rampx | rampy | rampz | eind =>
      intro s v ⟨hramps, hrest⟩
      rw [rampsLegal_iff] at hramps
      exact ⟨by simp [rampsLegal_iff, and_mask, hramps], hrest⟩
    case ccp => exact fun s v => registersWf_writeCcp v
    case clkCtrl =>
      refine fun s v h => registersWf_setClk h fun hc => ?_
      obtain ⟨-, hps, hcode, hlock⟩ := (Clk.wf_iff _).mp hc
      exact (Clk.wf_iff _).mpr ⟨and_mask .., hps, hcode, hlock⟩
    case clkLock => exact fun s v h => registersWf_setClk h (clk_wf_lock v)
    case clkRtc => exact fun s v h => registersWf_setClk h id
    case psctrl =>
      -- An accepted PSCTRL also rescales the events (R466), which the form does not look at.
      refine fun s v hv h => registersWf_setClk (s := s) h fun hc => ?_
      obtain ⟨hctrl, -, -, hlock⟩ := (Clk.wf_iff _).mp hc
      exact (Clk.wf_iff _).mpr ⟨hctrl, and_mask .., (congrArg _ (prescA_and_mask v)).trans hv, hlock⟩
    case ivLevel => exact fun s iv l h => by rw [setIvLevel_frame]; exact h
    case schedule => exact fun s d c n p call hd t hs h => by rw [schedule_frame hs]; exact h
    case unschedule => exact fun s hd t hs h => by rw [unschedule_frame hs]; exact h
    all_goals intros; assumption
  case countDown => exact fun s => registersWf_ccpCountDown
  case retiClear => exact fun s h => by rw [pmicRetiClear_frame]; exact h
  case endCallback => exact fun s n h => by rw [endCallback_frame]; exact h
  all_goals intros; assumption

/-- Settles O55: every update a step is made of keeps the forms of the registers. -/
theorem stepKeepsRegisterForms : Obligations.StepKeepsRegisterForms := by
  unfold Obligations.StepKeepsRegisterForms
  exact fun s t hramps hclk hccp h => step_keeps keepsStep_registersWf h ⟨hramps, hclk, hccp⟩

/-! ## The places of SREG (R40) -/

/-- A byte string as a number: the high part times its place, plus the low part. -/
theorem toNat_append_add {m n : Nat} (x : BitVec m) (y : BitVec n) : (x ++ y).toNat = x.toNat * 2 ^ n + y.toNat := by
  rw [BitVec.toNat_append, ← Nat.shiftLeft_add_eq_or_of_lt y.isLt, Nat.shiftLeft_eq]

/-- Settles O1: each flag's place is the number of flags appended behind it. -/
theorem sregLayout : Obligations.SregLayout := by
  unfold Obligations.SregLayout
  intro sreg i t h s v n z c
  refine ⟨?_, rfl⟩
  simp only [packSreg, toNat_append_add, BitVec.toNat_ofBool]
  omega

/-! ## Fetching (R37) -/

theorem executeNext_fetch_fault {s : State} {f : Fault} (h : fetchWord s.pc s = .error f) : executeNext s = .fault f := by
  simp [executeNext, h]

theorem executeNext_second_fault {s : State} {op : Word} {f : Fault} (h : fetchWord s.pc s = .ok op)
    (hlong : isLong op = true) (h2 : fetchWord (s.pc + 1) s = .error f) : executeNext s = .fault f := by
  simp [executeNext, fetchSecond, h, hlong, h2]

/-- Settles O8: both fetches are range checked before anything is executed. -/
theorem fetchOutsideFlashFaults : Obligations.FetchOutsideFlashFaults := by
  unfold Obligations.FetchOutsideFlashFaults
  intro s
  refine ⟨fun hpc => executeNext_fetch_fault (fetchWord_fault hpc), fun h0 hlast hlong => ?_⟩
  exact executeNext_second_fault (fetchWord_ok h0 (by omega)) hlong (fetchWord_fault (.inr (by omega)))

/-! ## Addresses and pointers (R280, R281) -/

theorem lowByte_eq (w : Word) : lowByte w = BitVec.ofNat 8 w.toNat := by
  apply BitVec.eq_of_toNat_eq
  simp [lowByte]

theorem highByte_eq (w : Word) : highByte w = BitVec.ofNat 8 (w.toNat / 256) := by
  apply BitVec.eq_of_toNat_eq
  simp [highByte, Nat.shiftRight_eq_div_pow]

theorem full_toNat (s : State) (p : Ptr) :
    (s.full p).toNat = (s.ramp p).toNat * 65536 + (s.reg (p.lo + 1)).toNat * 256 + (s.reg p.lo).toNat := by
  rw [State.full, toNat_append_add, State.ptr, State.pair, pairOf_toNat, Nat.add_assoc]
  rfl

theorem displaced_toNat (s : State) (p : Ptr) (q : BitVec 6) :
    (s.displaced p q).toNat = ((s.full p).toNat + q.toNat) % 16777216 := by
  have hq : q.toNat < 16777216 := Nat.lt_trans q.isLt (by decide)
  simp [State.displaced, Nat.mod_eq_of_lt hq]

theorem direct_toNat (s : State) (k : Word) : (s.direct k).toNat = s.rampd.toNat * 65536 + k.toNat :=
  toNat_append_add s.rampd k

/-- What each register holds after a pair was written (R13). -/
theorem reg_setPair (s : State) (r j : Reg) (w : Word) : (s.setPair r w).reg j =
    if j = r then BitVec.ofNat 8 w.toNat else if j = r + 1 then BitVec.ofNat 8 (w.toNat / 256) else s.reg j := by
  have hne : r + 1 ≠ r := by simp
  rw [State.setPair, reg_setReg, reg_setReg, lowByte_eq, highByte_eq]
  by_cases hlo : j = r
  · subst hlo; simp
  · simp [hlo, Ne.symm hlo, eq_comm]

/-- The legal bits of a pointer's extension register (R9, R45). -/
def Ptr.mask (m : Params) : Ptr → Byte
  | .x => m.rampxMask
  | .y => m.rampyMask
  | .z => m.rampzMask

/-- What each extension register holds after one was written (R45). -/
theorem ramp_setRamp (s : State) (p j : Ptr) (v : Byte) :
    (s.setRamp p v).ramp j = if j = p then v &&& p.mask s.params else s.ramp j := by
  cases p <;> cases j <;> rfl

theorem ramp_setPair (s : State) (r : Reg) (w : Word) (j : Ptr) : (s.setPair r w).ramp j = s.ramp j := by cases j <;> rfl

/-- Settles O19: a pointer's update writes its pair and, masked, its extension register. -/
theorem pointerArithmetic : Obligations.PointerArithmetic := by
  unfold Obligations.PointerArithmetic
  intro s p q k v
  refine ⟨full_toNat s p, displaced_toNat s p q, direct_toNat s k, fun j => ?_, fun j => ?_, ?_⟩
  · rw [State.setFull, reg_setRamp, reg_setPair]
    have hlo : BitVec.ofNat 8 (v.extractLsb' 0 16).toNat = BitVec.ofNat 8 v.toNat := by
      apply BitVec.eq_of_toNat_eq; simp
    have hhi : BitVec.ofNat 8 ((v.extractLsb' 0 16).toNat / 256) = BitVec.ofNat 8 (v.toNat / 256) := by
      apply BitVec.eq_of_toNat_eq; simp; omega
    rw [hlo, hhi]
  · rw [State.setFull, ramp_setRamp, ramp_setPair]
    have hext : v.extractLsb' 16 8 = BitVec.ofNat 8 (v.toNat / 65536) := by
      apply BitVec.eq_of_toNat_eq; simp [Nat.shiftRight_eq_div_pow]
    rw [hext]
    cases p <;> rfl
  · cases p <;> rfl

/-! ## PUSH and POP (R43, R95, R371, R372) -/

/-- Settles O38: PUSH is one push and POP one pop, within internal SRAM. -/
theorem pushPopResults : Obligations.PushPopResults := by
  unfold Obligations.PushPopResults
  intro r d s
  constructor
  · intro h
    obtain ⟨he, h1, h2⟩ := (canPush_iff _ _).mp h
    have hsp : s.sp - 1 = BitVec.ofNat 16 (s.sp.toNat - 1) := by
      apply BitVec.eq_of_toNat_eq
      have := s.sp.isLt
      rw [BitVec.toNat_sub]; simp; omega
    have hpush : push8 (s.reg r) s = _ := push8_ok he ((inSram_iff _ _).mpr ⟨by omega, h2⟩)
    rw [← hsp, exec, execPush, hpush]
    rfl
  · intro h
    obtain ⟨-, -, -, hlt⟩ := (canPop_iff _ _).mp h
    have hsp : s.sp + 1 = BitVec.ofNat 16 (s.sp.toNat + 1) := by
      apply BitVec.eq_of_toNat_eq
      simp
    rw [← hsp, Nat.mod_eq_of_lt hlt, exec, execPop, pop8_canPop s h]
    rfl

/-! ## Image load and `set_pc` (R38, R93, R504) -/

/-- What a flash byte reads as after an image was put in from byte `b` on (R93). -/
theorem memGet_loadBytes (image : List Byte) (b c : Nat) (m : Memory) (h : Memory.wf (some flashErased) m = true) :
    (memGet (loadBytes image b m) c).getD flashErased =
      if b ≤ c then image[c - b]?.getD ((memGet m c).getD flashErased) else (memGet m c).getD flashErased := by
  induction image generalizing b m with
  | nil => simp [loadBytes]
  | cons v vs ih =>
    obtain ⟨hsorted, -⟩ := (wf_iff _ _).mp h
    rw [loadBytes, ih (b + 1) _ (flashPut_wf b v h), memGet_flashPut m b c v hsorted]
    obtain hlt | rfl | hgt := Nat.lt_trichotomy c b
    · simp [Nat.not_le.mpr hlt, Nat.not_le.mpr (Nat.lt_succ_of_lt hlt), Nat.ne_of_lt hlt]
    · simp
    · obtain ⟨k, rfl⟩ := Nat.exists_eq_add_of_lt hgt
      have hk : b + k + 1 - (b + 1) = k := by omega
      have hk1 : b + k + 1 - b = k + 1 := by omega
      simp [hk, hk1, Nat.le_of_lt hgt, Nat.ne_of_gt hgt]

/-- A byte of flash after an image load: the image's, and past its end the old one (R504). -/
theorem flashAt_loadBytes {s : State} (image : List Byte) (c : Nat) (h : Memory.wf (some flashErased) s.flash = true) :
    { s with flash := loadBytes image 0 s.flash }.flashAt c = image[c]?.getD (s.flashAt c) :=
  (memGet_loadBytes image 0 c s.flash h).trans (if_pos (Nat.zero_le c))

/-- Settles O51: an even image covers words whole, and a device whose load failed is refused before anything else is
looked at. -/
theorem hostLoads : Obligations.HostLoads := by
  unfold Obligations.HostLoads
  intro image v s hs
  obtain ⟨-, -, hflash⟩ := (memWf_iff s).mp hs
  refine ⟨fun heven hsize => ⟨_, if_pos ⟨heven, hsize⟩, rfl, fun w => ?_⟩, fun hbad => ?_, fun hv => if_pos hv,
    fun hv => if_neg (Nat.not_lt.mpr hv)⟩
  · rw [State.flashWord, flashAt_loadBytes image _ hflash, flashAt_loadBytes image _ hflash]
    split
    · next hw =>
      apply BitVec.eq_of_toNat_eq
      have hlo := image[2 * w].isLt
      have hhi := image[2 * w + 1].isLt
      rw [List.getElem?_eq_getElem hw, List.getElem?_eq_getElem (Nat.lt_of_succ_lt hw)]
      simp only [Option.getD_some, pairOf_toNat, BitVec.toNat_ofNat]
      omega
    · next hw =>
      rw [List.getElem?_eq_none (by omega), List.getElem?_eq_none (by omega)]
      rfl
  · rw [loadFlashImage, if_neg (by omega)]
    rfl

/-! ## Reset (R427, R454, R501, R502) -/

/-- What the reset of a block of a kind writes, the state of external blocks apart (R501). -/
def kindReset : BlockKind → State → State
  | .cpu => resetCpu
  | .pmic => resetPmic
  | .gpior => fun s => { s with gpior := Vector.replicate 16 0 }
  | .clk | .external => id

theorem kindReset_idem (k : BlockKind) (s : State) : kindReset k (kindReset k s) = kindReset k s := by cases k <;> rfl

theorem kindReset_comm (k j : BlockKind) (s : State) : kindReset k (kindReset j s) = kindReset j (kindReset k s) := by
  cases k <;> cases j <;> rfl

theorem kindReset_withExt (k : BlockKind) (s : State) (d : List (List Nat)) :
    kindReset k { s with ext := d } = { kindReset k s with ext := d } := by
  cases k <;> rfl

/-- What the reset of a block other than CLK leaves alone. -/
def State.outsideBlocks (s : State) : Sched × Clk × Memory × Memory × List LogRecord × Params :=
  (s.sched, s.clk, s.flash, s.sram, s.log, s.params)

theorem outsideBlocks_kindReset (k : BlockKind) (s : State) : (kindReset k s).outsideBlocks = s.outsideBlocks := by
  cases k <;> rfl

theorem resetBlock_quiet (n : Nat) {b : BlockDecl} (s : State) (hb : b.callsCore = false) :
    ∃ d, resetBlock n b s = .ok (kindReset b.kind { s with ext := d }) := by
  unfold resetBlock
  cases b.kind with
  | external => exact ⟨s.ext.set n [], by simp [hb, kindReset, State.setExt]⟩
  | cpu | clk | pmic | gpior => exact ⟨s.ext, rfl⟩

/-- Blocks that call nothing reset without a fault. In the end each kind among them is reset, since no later reset undoes an
earlier one. -/
theorem resetBlocks_quiet {bs : List BlockDecl} (n : Nat) (s : State) (hbs : ∀ b ∈ bs, b.callsCore = false) :
    ∃ t, resetBlocks bs n s = .ok t ∧ (∀ b ∈ bs, kindReset b.kind t = t) ∧ (∀ k, kindReset k s = s → kindReset k t = t) ∧
      t.outsideBlocks = s.outsideBlocks := by
  induction bs generalizing n s with
  | nil => exact ⟨s, rfl, by simp, fun _ h => h, rfl⟩
  | cons b bs ih =>
    obtain ⟨hb, hbs⟩ := List.forall_mem_cons.mp hbs
    obtain ⟨d, hd⟩ := resetBlock_quiet n s hb
    obtain ⟨t, ht, hdone, hkeep, hout⟩ := ih (n + 1) (kindReset b.kind { s with ext := d }) hbs
    refine ⟨t, by rw [resetBlocks, hd]; exact ht, List.forall_mem_cons.mpr ⟨hkeep _ (kindReset_idem _ _), hdone⟩,
      fun k hk => hkeep k ?_, hout.trans (outsideBlocks_kindReset _ _)⟩
    rw [kindReset_comm, kindReset_withExt k, hk]

/-- The state in which `reset()` resets the blocks (R501): the CPU event alone in the heap, at scale 1. -/
def State.resetStarted (s : State) : State :=
  { s with
    clk := ⟨0, 0, 0, 0⟩
    sched := ⟨0, [cpuEvent s.sched.nextHandle s.sched.nextSeq], none, s.sched.nextHandle + 1, s.sched.nextSeq + 1⟩ }

theorem hostReset_ok {s t : State} (h : s.sched.running = none)
    (ht : resetBlocks s.params.registry 0 s.resetStarted = .ok t) :
    hostReset s = .ok { t with regs := Vector.replicate 32 0 } := by
  have hcpu : scheduleCpu (resetClk (s.setSched { s.sched with currentSysTick := 0, heap := [] })) =
      .ok (s.sched.nextHandle, s.resetStarted) := by
    unfold scheduleCpu schedule
    simp [resetClk, h]
    rfl
  show (scheduleCpu (resetClk (s.setSched { s.sched with currentSysTick := 0, heap := [] }))).bind _ = _
  rw [hcpu]
  show (resetBlocks s.params.registry 0 s.resetStarted).bind _ = _
  rw [ht]
  rfl

/-- The registers of the CPU block after its reset (R44, R502). -/
theorem cpu_of_reset {s : State} (h : resetCpu s = s) :
    s.pc = 0 ∧ s.sp = spReset s.params ∧ s.sreg = 0 ∧ s.rampd = 0 ∧ s.rampx = 0 ∧ s.rampy = 0 ∧ s.rampz = 0 ∧ s.eind = 0 ∧
      s.ccpReg = 0 ∧ s.ccpIoreg = 0 ∧ s.ccpSpm = 0 ∧ s.instructionCycles = 0 ∧ s.interruptWait = false ∧
      s.breaked = false := by
  rw [← h]
  exact ⟨rfl, rfl, rfl, rfl, rfl, rfl, rfl, rfl, rfl, rfl, rfl, rfl, rfl, rfl⟩

/-- Settles O52: the CPU event is scheduled in the emptied heap, and each block's reset is done in the end. -/
theorem resetLeaves : Obligations.ResetLeaves := by
  unfold Obligations.ResetLeaves
  intro s hrun hq
  have hquiet : ∀ b ∈ s.params.registry, b.callsCore = false := by simpa [quietBlocks] using hq
  obtain ⟨t, ht, hdone, -, hout⟩ := resetBlocks_quiet 0 s.resetStarted hquiet
  simp only [State.outsideBlocks, Prod.mk.injEq] at hout
  obtain ⟨hsched, hclk, hflash, hsram, hlog, hparams⟩ := hout
  obtain ⟨hpc, hsp, hsreg, hrampd, hrampx, hrampy, hrampz, heind, hccp, hio, hspm, hcycles, hwait, hbreaked⟩ :=
    cpu_of_reset (hdone Params.cpuBlock (by simp [Params.registry]))
  have hpmic : resetPmic t = t := hdone Params.pmicBlock (by simp [Params.registry])
  have hgpior : s.params.gpior.kind = .gpior → t.gpior = Vector.replicate 16 0 := fun hk => by
    have hreset := hdone s.params.gpior (by simp [Params.registry])
    rw [hk] at hreset
    exact (congrArg State.gpior hreset).symm
  refine ⟨{ t with regs := Vector.replicate 32 0 }, hostReset_ok hrun ht, fun j => by simp [State.reg],
    hpc, hsp.trans (congrArg spReset hparams), hsreg, hrampd, hrampx, hrampy, hrampz, heind, hccp, hio,
    hspm, hcycles, hwait, hbreaked, congrArg State.pmic hpmic.symm, hclk, congrArg Sched.currentSysTick hsched,
    congrArg Sched.running hsched, congrArg Sched.heap hsched, fun hk j => ?_, hflash, hsram, hlog⟩
  simp [hgpior hk]

/-! ## The registers of the CPU block (R42 to R48) -/

theorem exec_outp_cpu (a : BitVec 6) (r : Reg) (s : State) (h : 0x30 ≤ a.toNat := by decide) :
    exec (.outp a r) s = .next ((cpuWrite (a.toNat - 0x30) (s.reg r) s).retire 1 .outp 1) := by
  have ha : (ioAddr a).toNat = a.toNat := by simp [ioAddr]; omega
  rw [exec, execOutp, memWrite_cpu _ _ (by omega) (by omega), ha]
  rfl

theorem exec_inp_cpu (d : Reg) (a : BitVec 6) (s : State) (h : 0x30 ≤ a.toNat := by decide) :
    exec (.inp d a) s =
      .next (((cpuRead (a.toNat - 0x30) s).2.setReg d (cpuRead (a.toNat - 0x30) s).1).retire 1 .inp 1) := by
  have ha : (ioAddr a).toNat = a.toNat := by simp [ioAddr]; omega
  rw [exec, execInp, loadAt, memRead_cpu _ (by omega) (by omega), ha]
  rfl

theorem pairOf_eq (hi lo : Byte) : pairOf hi lo = BitVec.ofNat 16 (hi.toNat * 256 + lo.toNat) := by
  apply BitVec.eq_of_toNat_eq
  rw [pairOf_toNat]
  simp; omega

/-- Settles O30: each address selects its register of the block. -/
theorem cpuRegistersByIo : Obligations.CpuRegistersByIo := by
  unfold Obligations.CpuRegistersByIo
  intro d r a s
  have hspl : pairOf (highByte s.sp) (s.reg r) = BitVec.ofNat 16 (s.sp.toNat / 256 * 256 + (s.reg r).toNat) := by
    rw [pairOf_eq, highByte_eq, BitVec.toNat_ofNat, Nat.mod_eq_of_lt (by omega)]
  have hsph : pairOf (s.reg r) (lowByte s.sp) = BitVec.ofNat 16 ((s.reg r).toNat * 256 + s.sp.toNat % 256) := by
    rw [pairOf_eq, lowByte_eq]; simp
  refine ⟨exec_outp_cpu _ r s, exec_outp_cpu _ r s, exec_outp_cpu _ r s, exec_outp_cpu _ r s, exec_outp_cpu _ r s,
    exec_outp_cpu _ r s, hspl ▸ exec_outp_cpu 0x3D r s, hsph ▸ exec_outp_cpu 0x3E r s, exec_outp_cpu _ r s,
    exec_inp_cpu d _ s, exec_inp_cpu d _ s, exec_inp_cpu d _ s, exec_inp_cpu d _ s, exec_inp_cpu d _ s, exec_inp_cpu d _ s,
    lowByte_eq s.sp ▸ exec_inp_cpu d 0x3D s, highByte_eq s.sp ▸ exec_inp_cpu d 0x3E s, exec_inp_cpu d _ s, fun ha => ?_⟩
  simp only [List.mem_cons, List.not_mem_nil, or_false] at ha
  rcases ha with rfl | rfl | rfl | rfl | rfl | rfl | rfl <;> exact ⟨exec_outp_cpu _ r s, exec_inp_cpu d _ s⟩

/-! ## STATUS and `breaked` (R394, R422, R434) -/

/-- `set_iv_level` moves a vector between the pending sets and leaves the levels in service alone (R425). -/
theorem setIvLevel_status (iv level : Int) (s : State) : (setIvLevel iv level s).pmic.status = s.pmic.status := by
  unfold setIvLevel
  split
  · next l _ =>
    split
    · cases l <;> rfl
    · rfl
  · rfl

/-- No named update of an instruction writes STATUS or `breaked`. -/
theorem keeps_statusAndBreaked (x : BitVec 4) (b : Bool) : Keeps (fun s => s.pmic.status = x ∧ s.breaked = b) := by
  constructor
  case ivLevel =>
    intro s iv l ⟨hstatus, hbreaked⟩
    exact ⟨(setIvLevel_status iv l s).trans hstatus, by rw [setIvLevel_frame]; exact hbreaked⟩
  case schedule => exact fun s d c n p call hd t hs h => by rw [schedule_frame hs]; exact h
  case unschedule => exact fun s hd t hs h => by rw [unschedule_frame hs]; exact h
  all_goals intros; assumption

/-- Settles O60: RETI's level clear and BREAK's flag are updates of their own, and all others keep both. -/
theorem onlyRetiAndBreak : Obligations.OnlyRetiAndBreak := by
  unfold Obligations.OnlyRetiAndBreak
  intro i s t h
  by_cases hreti : i = .reti
  · subst hreti
    have hb : (pmicRetiClear s).breaked = s.breaked := by rw [pmicRetiClear_frame]
    exact (keeps_statusAndBreaked _ _).returnWith (s := pmicRetiClear s) h ⟨rfl, hb⟩
  · by_cases hbrk : i = .brk
    · subst hbrk
      injection h with h
      subst h
      exact ⟨rfl, rfl⟩
    · rw [if_neg hreti, if_neg hbrk]
      exact exec_keeps (keeps_statusAndBreaked _ _) (absurd · hreti) (absurd · hbrk) h ⟨rfl, rfl⟩

/-! ## What a read can change (R83, R410, R467) -/

/-- What a read changes at most, the calls of a hook included: the log, the count of free values, external blocks, the pending
sets and the scheduler. -/
def State.readsTo (s t : State) : Prop :=
  t = { s with log := t.log, draws := t.draws, ext := t.ext, pmic := t.pmic, sched := t.sched }

theorem readsTo_trans {s t u : State} (h1 : s.readsTo t) (h2 : t.readsTo u) : s.readsTo u := by
  unfold State.readsTo at *
  rw [h2, h1]

theorem serve_readsTo {o : Nat} {c : ServiceCall} {s t : State} (h : serve o c s = .ok t) : s.readsTo t := by
  cases c with
  | setIvLevel iv l => injection h with h; subst h; exact setIvLevel_frame iv l s ▸ rfl
  | schedule d tag n p =>
    obtain ⟨⟨x, u⟩, hs, rfl⟩ := map_ok h
    exact schedule_frame hs ▸ rfl
  | unschedule x => exact unschedule_frame h ▸ rfl

theorem serveAll_readsTo {o : Nat} {cs : List ServiceCall} {s t : State} (h : serveAll o cs s = .ok t) : s.readsTo t := by
  induction cs generalizing s with
  | nil => injection h with h; subst h; rfl
  | cons c cs ih =>
    obtain ⟨u, hc, hcs⟩ := bind_ok h
    exact readsTo_trans (serve_readsTo hc) (ih hcs)

theorem hookReply_readsTo {n : Nat} {b : BlockDecl} {r : HookReply} {s t : State} (h : hookReply n b r s = .ok t) :
    s.readsTo t := by
  have hext : s.readsTo (s.setExt n r.data) := rfl
  unfold hookReply at h
  split at h
  · exact readsTo_trans hext (serveAll_readsTo h)
  · injection h with h; subst h; exact hext

theorem cpuRead_readsTo (a : Nat) (s : State) : s.readsTo (cpuRead a s).2 := by
  unfold cpuRead
  split <;> rfl

theorem clkRead_readsTo (a : Nat) (s : State) : s.readsTo (clkRead a s).2 := by
  unfold clkRead
  split <;> rfl

theorem emuRead_readsTo (k : Nat) (s : State) : s.readsTo (emuRead k s).2 := by
  unfold emuRead
  split <;> rfl

theorem readsTo_of_ok {x : Byte × State} {v : Byte} {s t : State} (h : (.ok x : Res Byte) = .ok (v, t))
    (hx : s.readsTo x.2) : s.readsTo t := by
  cases h
  exact hx

theorem blockGetIo_readsTo {n a : Nat} {b : BlockDecl} {v : Byte} {s t : State} (h : blockGetIo n b a s = .ok (v, t)) :
    s.readsTo t := by
  unfold blockGetIo at h
  split at h
  · exact readsTo_of_ok h (cpuRead_readsTo a s)
  · exact readsTo_of_ok h (clkRead_readsTo a s)
  · exact readsTo_of_ok h rfl
  · exact readsTo_of_ok h rfl
  · obtain ⟨u, hu, he⟩ := map_ok h
    cases he
    exact hookReply_readsTo hu

theorem ioRead_readsTo {a : Nat} {v : Byte} {s t : State} (h : ioRead a s = .ok (v, t)) : s.readsTo t := by
  unfold ioRead at h
  split at h
  · exact readsTo_of_ok h rfl
  · exact blockGetIo_readsTo h

theorem memRead_readsTo {a : DataAddr} {v : Byte} {s t : State} (h : memRead a s = .ok (v, t)) : s.readsTo t := by
  unfold memRead at h
  simp only at h
  split at h
  · exact ioRead_readsTo h
  · exact readsTo_of_ok h rfl
  · exact readsTo_of_ok h rfl
  · exact readsTo_of_ok h (emuRead_readsTo _ s)
  · exact readsTo_of_ok h rfl
  · exact readsTo_of_ok h rfl

theorem State.readsTo.sreg {s t : State} (h : s.readsTo t) : t.sreg = s.sreg := by
  unfold State.readsTo at h
  rw [h]

theorem State.readsTo.params {s t : State} (h : s.readsTo t) : t.params = s.params := by
  unfold State.readsTo at h
  rw [h]

/-! ## SREG under loads (R41) -/

@[simp] theorem setFull_sreg (s : State) (p : Ptr) (v : DataAddr) : (s.setFull p v).sreg = s.sreg := setRamp_sreg _ p _

@[simp] theorem logOverlap_sreg (p : Ptr) (r : Reg) (i : Instr) (s : State) : (logOverlap p r i s).sreg = s.sreg := by
  unfold logOverlap
  split <;> rfl

@[simp] theorem drawPair_sreg (p : Ptr) (s : State) : (drawPair p s).sreg = s.sreg := rfl

@[simp] theorem spoilLoad_sreg (p : Ptr) (r : Reg) (s : State) : (spoilLoad p r s).sreg = s.sreg := by
  unfold spoilLoad
  split
  · exact setRamp_sreg _ p _
  · rfl

theorem loadAt_sreg {a : DataAddr} {d : Reg} {s t : State} (h : loadAt a d s = .ok t) : t.sreg = s.sreg := by
  obtain ⟨⟨v, u⟩, hr, rfl⟩ := map_ok h
  exact (memRead_readsTo hr).sreg

theorem loadInc_sreg {p : Ptr} {d : Reg} {i : Instr} {s t : State} (h : loadInc p d i s = .ok t) : t.sreg = s.sreg := by
  obtain ⟨u, hu, rfl⟩ := map_ok h
  simp [loadAt_sreg hu]

theorem loadDec_sreg {p : Ptr} {d : Reg} {i : Instr} {s t : State} (h : loadDec p d i s = .ok t) : t.sreg = s.sreg := by
  obtain ⟨u, hu, rfl⟩ := map_ok h
  simp [loadAt_sreg hu]

theorem loadFlash_sreg {b : Nat} {d : Reg} {s t : State} (h : loadFlash b d s = .ok t) : t.sreg = s.sreg := by
  obtain ⟨v, -, rfl⟩ := map_ok h
  rfl

/-! ## SREG under pushes and pops (R41, R95) -/

theorem push8_sreg {v : Byte} {s t : State} (h : push8 v s = .ok t) : t.sreg = s.sreg := by
  unfold push8 at h
  split at h
  · next hin =>
    obtain ⟨u, hu, rfl⟩ := map_ok h
    obtain ⟨hlow, -⟩ := (inSram_iff _ _).mp hin
    obtain ⟨w, hw, he, -⟩ := memWrite_high (s := s) (a := dataAddr s.sp) v (by rw [dataAddr_toNat]; omega)
    cases hw.symm.trans hu
    rw [setSp_sreg, he]
  · cases h

theorem pop8_sreg {v : Byte} {s t : State} (h : pop8 s = .ok (v, t)) : t.sreg = s.sreg := by
  unfold pop8 at h
  simp only at h
  split at h
  · exact (memRead_readsTo h).sreg
  · cases h

theorem pushPc_sreg {v : Int} {s t : State} (h : pushPc v s = .ok t) : t.sreg = s.sreg := by
  obtain ⟨u, hu, h⟩ := bind_ok (f := _) h
  obtain ⟨w, hw, h⟩ := bind_ok (f := _) h
  have hsreg : w.sreg = s.sreg := (push8_sreg hw).trans (push8_sreg hu)
  split at h
  · exact (push8_sreg h).trans hsreg
  · cases h; exact hsreg

theorem popPc_sreg {v : Int} {s t : State} (h : popPc s = .ok (v, t)) : t.sreg = s.sreg := by
  unfold popPc at h
  split at h
  · obtain ⟨⟨hi, u⟩, hu, h⟩ := bind_ok (x := pop8 s) h
    obtain ⟨⟨mid, w⟩, hw, h⟩ := bind_ok (x := pop8 u) h
    obtain ⟨⟨lo, x⟩, hx, h⟩ := bind_ok (x := pop8 w) h
    cases h
    rw [pop8_sreg hx, pop8_sreg hw, pop8_sreg hu]
  · obtain ⟨⟨mid, w⟩, hw, h⟩ := bind_ok (x := pop8 s) h
    obtain ⟨⟨lo, x⟩, hx, h⟩ := bind_ok (x := pop8 w) h
    cases h
    rw [pop8_sreg hx, pop8_sreg hw]

/-! ## SREG under writes of an I/O bit (R333, R334) -/

theorem ioOwnerFrom_some {bs : List BlockDecl} {n a k : Nat} {b : BlockDecl} (h : ioOwnerFrom bs n a = some (k, b)) :
    b ∈ bs ∧ b.ioBase ≤ a ∧ a < b.ioBase + b.ioSize := by
  induction bs generalizing n with
  | nil => cases h
  | cons c cs ih =>
    unfold ioOwnerFrom at h
    split at h
    · next hrange => cases h; exact ⟨List.mem_cons_self, hrange⟩
    · obtain ⟨hmem, hrange⟩ := ih h
      exact ⟨List.mem_cons_of_mem _ hmem, hrange⟩

/-- Of the registered blocks of a valid device, only the CPU block itself is of its kind. -/
theorem kind_ne_cpu_of_valid {p : Params} {b : BlockDecl} (hp : p.valid = true) (hb : b ∈ p.registry)
    (hne : b ≠ Params.cpuBlock) : b.kind ≠ .cpu := by
  have hall : ∀ c ∈ p.osc :: p.gpior :: p.further, c.kind ≠ .cpu := by
    intro c hc hk
    simp only [Params.valid, Bool.and_eq_true, List.all_eq_true] at hp
    obtain ⟨⟨-, hkinds⟩, -⟩ := hp
    simpa [hk] using hkinds c hc
  simp only [Params.registry, List.cons_append, List.nil_append, List.mem_cons] at hb
  obtain rfl | rfl | rfl | rfl | rfl | hb := hb
  · exact absurd rfl hne
  · exact hall _ (by simp)
  · decide
  · decide
  · exact hall _ (by simp)
  · exact hall _ (by simp [hb])

theorem clkWrite_sreg (a addr : Nat) (v : Byte) (s : State) : (clkWrite a addr v s).sreg = s.sreg := by
  unfold clkWrite
  split
  · split <;> rfl
  · split
    · unfold writePsctrl
      split <;> rfl
    · rfl
  · split <;> rfl
  · rfl
  · rfl

theorem pmicWrite_sreg (a addr : Nat) (v : Byte) (s : State) : (pmicWrite a addr v s).sreg = s.sreg := by
  unfold pmicWrite
  split <;> rfl

/-- Every block but CPU leaves SREG alone when it is written. -/
theorem blockSetIo_sreg {n a : Nat} {b : BlockDecl} {v : Byte} {s t : State} (hk : b.kind ≠ .cpu)
    (h : blockSetIo n b a v s = .ok t) : t.sreg = s.sreg := by
  unfold blockSetIo at h
  split at h
  · next hcpu => exact absurd hcpu hk
  · cases h; exact clkWrite_sreg ..
  · cases h; exact pmicWrite_sreg ..
  · cases h; rfl
  · exact (hookReply_readsTo h).sreg

theorem memWrite_below_cpu_sreg {a : DataAddr} {v : Byte} {s t : State} (hp : s.params.valid = true) (ha : a.toNat < 0x30)
    (h : memWrite a v s = .ok t) : t.sreg = s.sreg := by
  simp only [memWrite, regionOf_io (Nat.lt_trans ha (by decide : 0x30 < 0x1000)), ioWrite] at h
  split at h
  · cases h; rfl
  · next n b ho =>
    obtain ⟨hmem, hlow, -⟩ := ioOwnerFrom_some ho
    refine blockSetIo_sreg (kind_ne_cpu_of_valid hp hmem fun hcpu => ?_) h
    subst hcpu
    exact absurd hlow (Nat.not_le.mpr ha)

theorem ioModify_sreg {f : Byte → Byte} {a : BitVec 5} {s t : State} (hp : s.params.valid = true)
    (h : ioModify f a s = .ok t) : t.sreg = s.sreg := by
  obtain ⟨⟨v, u⟩, hu, h⟩ := bind_ok (f := _) h
  have hr := memRead_readsTo hu
  have ha : (ioAddr a).toNat < 0x30 := by simp [ioAddr]; omega
  exact (memWrite_below_cpu_sreg (hr.params ▸ hp) ha h).trans hr.sreg

/-! ## SREG under instructions (R42) -/

theorem finish_sreg {r : Act} {w : Int} {f : Form} {n : Nat} {s t : State} (h : finish r (·.retire w f n) = .next t)
    (hr : ∀ u, r = .ok u → u.sreg = s.sreg) : t.sreg = s.sreg := by
  obtain ⟨u, hu, rfl⟩ := finish_next h
  exact hr u hu

theorem skipIf_sreg {c : Bool} {f : Form} {s t : State} (h : skipIf c f s = .next t) : t.sreg = s.sreg := by
  unfold skipIf at h
  split at h
  · split at h
    · split at h <;> (cases h; rfl)
    · cases h
  · cases h; rfl

theorem skipOnIo_sreg {a : BitVec 5} {c : Byte → Bool} {f : Form} {s t : State} (h : skipOnIo a c f s = .next t) :
    t.sreg = s.sreg := by
  unfold skipOnIo at h
  split at h
  · next hr => exact (skipIf_sreg h).trans (memRead_readsTo hr).sreg
  · cases h

theorem branchIf_sreg {c : Bool} {k : BitVec 7} {f : Form} {s t : State} (h : branchIf c k f s = .next t) :
    t.sreg = s.sreg := by
  unfold branchIf at h
  split at h <;> (cases h; rfl)

theorem callTo_sreg {r v : Int} {f : Form} {n : Nat} {s t : State} (h : callTo r v f n s = .next t) : t.sreg = s.sreg := by
  obtain ⟨u, hu, rfl⟩ := finish_next h
  rw [jump_sreg, pushPc_sreg hu]

theorem returnWith_sreg {f : Form} {n : Nat} {s t : State} (h : returnWith (popPc s) f n = .next t) : t.sreg = s.sreg := by
  unfold returnWith at h
  split at h
  · next hp => cases h; rw [jump_sreg, popPc_sreg hp]
  · cases h

/-- Settles O59: reads, pushes, pops and jumps leave SREG alone, and SBI and CBI reach no register of the CPU block. -/
theorem sregWritersOnly : Obligations.SregWritersOnly := by
  unfold Obligations.SregWritersOnly
  intro i s t hp hflags hstores h
  cases i with
  | add | adc | sub | subi | sbc | sbci | cp | cpc | cpi | and | andi | or | ori | eor | com | neg | inc | dec | asr | lsr
  | ror | adiw | sbiw | mul | muls | mulsu | fmul | fmuls | fmulsu | bst | bset | bclr => cases hflags
  | stX | stXInc | stXDec | stY | stYInc | stYDec | stZ | stZInc | stZDec | stdY | stdZ | sts | outp | xch | las | lac
  | lat => cases hstores
  | nop | movw | mov | ldi | swap | bld | sleep | wdr | des | spm | spmZInc | brk | jmp | rjmp | ijmp => cases h; rfl
  | ldZ | ldY | ldX | lddZ | lddY | lds | inp => exact finish_sreg h fun u => loadAt_sreg
  | ldZInc | ldYInc | ldXInc => exact finish_sreg h fun u => loadInc_sreg
  | ldZDec | ldYDec | ldXDec => exact finish_sreg h fun u => loadDec_sreg
  | lpmR0 | lpmZ | elpmR0 | elpmZ => exact finish_sreg h fun u => loadFlash_sreg
  | lpmZInc d =>
    obtain ⟨u, hu, rfl⟩ := finish_next h
    have hsreg := loadFlash_sreg hu
    simp only [retire_sreg]
    split <;> simp [hsreg]
  | elpmZInc d =>
    obtain ⟨u, hu, rfl⟩ := finish_next h
    simp [loadFlash_sreg hu]
  | sbi | cbi => exact finish_sreg h fun u => ioModify_sreg hp
  | push => exact finish_sreg h fun u => push8_sreg
  | pop =>
    refine finish_sreg h fun u hu => ?_
    obtain ⟨⟨v, w⟩, hw, rfl⟩ := map_ok hu
    rw [setReg_sreg, pop8_sreg hw]
  | call | rcall | icall => exact callTo_sreg h
  | eijmp =>
    have h : execEijmp s = .next t := h
    unfold execEijmp eindFallback at h
    split at h <;> (cases h; rfl)
  | eicall =>
    have h : execEicall s = .next t := h
    unfold execEicall eindFallback at h
    split at h
    · exact callTo_sreg h
    · cases h; rfl
  | ret => exact returnWith_sreg h
  | reti =>
    have hclear : (pmicRetiClear s).sreg = s.sreg := by rw [pmicRetiClear_frame]
    exact (returnWith_sreg (s := pmicRetiClear s) h).trans hclear
  | brbs | brbc => exact branchIf_sreg h
  | cpse | sbrc | sbrs => exact skipIf_sreg h
  | sbic | sbis => exact skipOnIo_sreg h

end Sys2Proof.Machine
end

section
/-! PROOFS. The statements on memory: the stack (R94, R95), flash reads (R91, R282, R307 to R312) and the data-space router (R80
to R88). -/

namespace Sys2Proof.Machine

open Sys2Proof

/-! ## The size of a return address (R8, R94) -/

theorem bigPc_iff (p : Params) : p.bigPc = true ↔ 0x20000 < p.flashSize := by simp [Params.bigPc]

theorem bySize_eq (s : State) (a b : Nat) : s.bySize a b = if 0x20000 < s.params.flashSize then b else a := by
  simp [State.bySize, bigPc_iff]

theorem retBytes_eq (p : Params) : p.retBytes = if 0x20000 < p.flashSize then 3 else 2 := by
  simp [Params.retBytes, bigPc_iff]

/-! ## Calls and returns with room on the stack (R94, R345 to R350) -/

/-- An instruction that is a call pushes its return address, where there is room, and goes to the target. -/
theorem calls_of_callTo {s : State} {i : Instr} {ret target : Int} {f : Form} {n : Nat}
    (hi : exec i s = callTo ret target f n s) : s.calls i ret target f n := by
  intro h
  obtain ⟨t, ht, hpushed, hframe⟩ := pushPc_ok s ret h
  refine ⟨t.jump target f n, hpushed, by rw [hi, callTo, ht]; rfl, ?_⟩
  rw [hframe]
  rfl

/-- Settles O35: each is a `callTo` of its own return address and target. -/
theorem callResults : Obligations.CallResults := by
  unfold Obligations.CallResults
  intro k22 k12 s by_
  have hby : by_ = s.bySize := funext₂ fun a b => (bySize_eq s a b).symm
  have hk : s.relative k12 = s.pc + 1 + if k12.toNat < 2048 then (k12.toNat : Int) else k12.toNat - 4096 := by
    rw [State.relative, BitVec.toInt]
    split <;> split <;> omega
  have hz : ((s.ptr .z).toNat : Int) = (s.reg 31).toNat * 256 + (s.reg 30).toNat :=
    congrArg Nat.cast (pairOf_toNat (s.reg 31) (s.reg 30))
  rw [hby, ← hk, ← hz]
  exact ⟨calls_of_callTo rfl, calls_of_callTo rfl, calls_of_callTo rfl⟩

/-- A return with an address on the stack goes to it. -/
theorem returnWith_popPc {s : State} (f : Form) (n : Nat) (h : canPop s s.params.retBytes = true) :
    returnWith (popPc s) f n = .next { s with
      sp := s.sp + BitVec.ofNat 16 s.params.retBytes, pc := s.returnAddress, instructionCycles := s.params.cyclesOf f n } := by
  rw [popPc_ok s h]
  rfl

/-- Settles O36: RETI is RET after the level clear, which leaves SP, SRAM and the parameters as they are. -/
theorem returnResults : Obligations.ReturnResults := by
  unfold Obligations.ReturnResults
  intro s h
  simp only [← bySize_eq]
  refine ⟨returnWith_popPc _ _ h, ?_⟩
  have hclear := pmicRetiClear_frame s
  have hpop : canPop (pmicRetiClear s) (pmicRetiClear s).params.retBytes = true := by rw [hclear]; exact h
  show returnWith (popPc (pmicRetiClear s)) _ _ = _
  rw [returnWith_popPc _ _ hpop, hclear]
  rfl

/-- SP less a few bytes, when it does not wrap (R43). -/
theorem sp_sub_toNat (x : Word) (k : Nat) (h : k ≤ x.toNat) : (x - BitVec.ofNat 16 k).toNat = x.toNat - k := by
  have hx := x.isLt
  rw [BitVec.toNat_sub, BitVec.toNat_ofNat]
  omega

/-- The address on the stack after a push: what was pushed, modulo the size of a return address. -/
theorem returnAddress_pushed {s t : State} {v : Int} (h : s.params.retBytes ≤ s.sp.toNat)
    (hp : s.pushed t s.params.retBytes v) (hparams : t.params = s.params) :
    (t.returnAddress : Int) = v % (if 0x20000 < s.params.flashSize then 16777216 else 65536) := by
  obtain ⟨hsp, hbytes, -⟩ := hp
  have hat : ∀ j k, j + k = s.params.retBytes → k < s.params.retBytes →
      ((t.sramAt (t.sp.toNat + j)).toNat : Int) = v / 256 ^ k % 256 := by
    intro j k hjk hk
    have haddr : t.sp.toNat + j = s.sp.toNat - k := by rw [hsp, sp_sub_toNat _ _ h]; omega
    rw [haddr, hbytes k hk, BitVec.toNat_ofInt]
    omega
  have hret := retBytes_eq s.params
  simp only [State.returnAddress, hparams, bigPc_iff]
  by_cases hbig : 0x20000 < s.params.flashSize
  · simp only [if_pos hbig] at hret ⊢
    have h1 := hat 1 2 (by omega) (by omega)
    have h2 := hat 2 1 (by omega) (by omega)
    have h3 := hat 3 0 (by omega) (by omega)
    omega
  · simp only [if_neg hbig] at hret ⊢
    have h1 := hat 1 1 (by omega) (by omega)
    have h2 := hat 2 0 (by omega) (by omega)
    omega

/-- Settles O37: the bytes above the new SP are those of the address, and popping them moves SP back. -/
theorem returnUndoesCall : Obligations.ReturnUndoesCall := by
  unfold Obligations.ReturnUndoesCall
  intro s t v h ht
  obtain ⟨u, hu, hpushed, hframe⟩ := pushPc_ok s v h
  cases hu.symm.trans ht
  obtain ⟨he, hlow, hhigh⟩ := (canPush_iff _ _).mp h
  have hparams : t.params = s.params := by rw [hframe]
  have hsp : t.sp = s.sp - BitVec.ofNat 16 s.params.retBytes := hpushed.1
  have hspNat := sp_sub_toNat s.sp s.params.retBytes (by omega)
  have hpop : canPop t t.params.retBytes = true :=
    (canPop_iff _ _).mpr (by rw [hparams, hsp, hspNat]; omega)
  rw [popPc_ok t hpop, returnAddress_pushed (by omega) hpushed hparams, hparams, hsp, BitVec.sub_add_cancel, hframe]
  rfl

/-! ## The stack byte by byte (R94, R95) -/

/-- The low `n` bytes of `v` pushed, least significant first. -/
def pushLow (v : Int) : Nat → State → Act
  | 0, s => .ok s
  | n + 1, s => (pushLow v n s).bind (push8 (BitVec.ofInt 8 (v / 256 ^ n)))

/-- One more byte popped, below those of the number popped so far. -/
def popNext (p : Nat × State) : Res Nat := (pop8 p.2).map fun q => (p.1 * 256 + q.1.toNat, q.2)

/-- The number that `n` popped bytes spell, most significant first. -/
def popHigh : Nat → State → Res Nat
  | 0, s => .ok (0, s)
  | n + 1, s => (popHigh n s).bind popNext

theorem push8_params {x : Byte} {s t : State} (h : push8 x s = .ok t) : t.params = s.params := by
  unfold push8 at h
  split at h
  · next hin =>
    obtain ⟨u, hu, rfl⟩ := map_ok h
    obtain ⟨hlow, -⟩ := (inSram_iff _ _).mp hin
    obtain ⟨w, hw, hframe, -⟩ := memWrite_high (s := s) (a := dataAddr s.sp) x (by rw [dataAddr_toNat]; omega)
    cases hw.symm.trans hu
    rw [setSp_params, hframe]
  · cases h

theorem pushLow_params {v : Int} {n : Nat} {s t : State} (h : pushLow v n s = .ok t) : t.params = s.params := by
  induction n generalizing t with
  | zero => cases h; rfl
  | succ n ih =>
    obtain ⟨u, hu, hpush⟩ := bind_ok h
    rw [push8_params hpush, ih hu]

/-- `PushPC` pushes the two or three bytes of a return address (R94). -/
theorem pushPc_eq_pushLow (v : Int) (s : State) : pushPc v s = pushLow v s.params.retBytes s := by
  obtain ⟨b0, b1, b2⟩ := ofInt_bytes v
  have htwo : pushPc v s = (pushLow v 2 s).bind fun t =>
      if t.params.bigPc then push8 (BitVec.ofInt 8 (v / 256 ^ 2)) t else .ok t := by
    simp only [pushPc, b0, b1, b2, pushLow, pow_zero, pow_one, Int.ediv_one]
    show (push8 (BitVec.ofInt 8 v) s).bind _ = ((push8 (BitVec.ofInt 8 v) s).bind _).bind _
    cases push8 (BitVec.ofInt 8 v) s <;> rfl
  rw [htwo, Params.retBytes]
  cases ht : pushLow v 2 s with
  | error f =>
    split
    · rw [pushLow, ht]; rfl
    · exact ht.symm
  | ok t =>
    simp only [Except.bind, pushLow_params ht]
    split
    · rw [pushLow, ht]; rfl
    · exact ht.symm

/-- `PopPC` pops the two or three bytes of a return address (R94). -/
theorem popPc_eq_popHigh (s : State) : popPc s = (popHigh s.params.retBytes s).map fun p => ((p.1 : Int), p.2) := by
  have hbytes (h m l : Byte) : (h ++ (m ++ l) : DataAddr).toNat = (h.toNat * 256 + m.toNat) * 256 + l.toNat := by
    simp only [toNat_append_add]
    omega
  have htwo (h : Byte) (t : State) :
      ((pop8 t).bind fun q => (pop8 q.2).bind fun r => .ok (((h ++ (q.1 ++ r.1) : DataAddr).toNat : Int), r.2)) =
        ((popNext (h.toNat, t)).bind popNext).map fun p => ((p.1 : Int), p.2) := by
    simp only [hbytes]
    show (pop8 t).bind _ = (((pop8 t).map _).bind _).map _
    cases pop8 t with
    | error f => rfl
    | ok q =>
      show (pop8 q.2).bind _ = ((pop8 q.2).map _).map _
      cases pop8 q.2 <;> rfl
  unfold popPc Params.retBytes
  split
  · show (pop8 s).bind _ = ((((pop8 s).map _).bind _).bind _).map _
    cases pop8 s with
    | error f => rfl
    | ok q =>
      obtain ⟨h, t⟩ := q
      have hacc : 0 * 256 + h.toNat = h.toNat := by omega
      refine (htwo h t).trans ?_
      rw [← hacc]
      rfl
  · exact htwo 0 s

/-- An address outside internal SRAM, as the claims say it (R95). -/
theorem inSram_eq_false {p : Params} {a : Nat} (h : a < 0x2000 ∨ 0x2000 + p.sramSize ≤ a) : inSram p a = false := by
  rw [← Bool.not_eq_true, inSram_iff]
  omega

theorem canPush_of_succ {s : State} {j : Nat} (h : canPush s (j + 1) = true) : canPush s j = true := by
  rw [canPush_iff] at h ⊢
  omega

theorem canPop_of_succ {s : State} {j : Nat} (h : canPop s (j + 1) = true) : canPop s j = true := by
  rw [canPop_iff] at h ⊢
  omega

theorem sp_add_succ (x : Word) (j : Nat) : x + BitVec.ofNat 16 (j + 1) = x + BitVec.ofNat 16 j + 1 := by
  rw [BitVec.ofNat_add, BitVec.add_assoc]
  rfl

theorem sp_sub_succ (x : Word) (j : Nat) : x - BitVec.ofNat 16 (j + 1) = x - BitVec.ofNat 16 j - 1 := by
  rw [BitVec.ofNat_add, BitVec.sub_sub]
  rfl

/-- Pushing within SRAM writes the bytes below SP and nothing else. -/
theorem pushLow_ok (v : Int) {j : Nat} {s : State} (h : j = 0 ∨ canPush s j = true) :
    ∃ t, pushLow v j s = .ok t ∧ s.pushed t j v ∧ t = { s with sram := t.sram, sp := t.sp } := by
  induction j with
  | zero => exact ⟨s, rfl, ⟨(BitVec.sub_zero _).symm, by simp, fun _ _ => rfl⟩, rfl⟩
  | succ j ih =>
    obtain h | h := h
    · cases h
    obtain ⟨t, ht, ⟨hsp, hbytes, hrest⟩, hframe⟩ := ih (.inr (canPush_of_succ h))
    obtain ⟨he, hlow, hhigh⟩ := (canPush_iff _ _).mp h
    have hspNat : t.sp.toNat = s.sp.toNat - j := by rw [hsp, sp_sub_toNat _ _ (by omega)]
    have hparams : t.params = s.params := by rw [hframe]
    have hpush : push8 (BitVec.ofInt 8 (v / 256 ^ j)) t = _ :=
      push8_ok (by rw [hparams]; exact he) ((inSram_iff _ _).mpr (by rw [hparams]; omega))
    refine ⟨_, by rw [pushLow, ht]; exact hpush, ⟨?_, fun k hk => ?_, fun b hb => ?_⟩, ?_⟩
    · rw [setSp_sp, hsp, sp_sub_succ]
    · show (t.setSram _ _).sramAt _ = _
      rw [sramAt_setSram, hspNat]
      by_cases hkj : k = j
      · rw [hkj, if_pos rfl]
      · rw [if_neg (by omega), hbytes k (by omega)]
    · show (t.setSram _ _).sramAt _ = _
      rw [sramAt_setSram, if_neg (by omega), hrest b (by omega)]
    · rw [hframe]
      rfl

/-- Popping within SRAM moves SP and changes nothing else. -/
theorem popHigh_ok {j : Nat} {s : State} (h : j = 0 ∨ canPop s j = true) :
    ∃ a, popHigh j s = .ok (a, s.setSp (s.sp + BitVec.ofNat 16 j)) := by
  induction j with
  | zero => exact ⟨0, by simp [popHigh, State.setSp]⟩
  | succ j ih =>
    obtain h | h := h
    · cases h
    obtain ⟨a, ha⟩ := ih (.inr (canPop_of_succ h))
    obtain ⟨he, hlow, hhigh, hwrap⟩ := (canPop_iff _ _).mp h
    have hspNat := sp_add_toNat s.sp j (by omega)
    have hpop := pop8_canPop (s.setSp (s.sp + BitVec.ofNat 16 j)) ((canPop_iff _ _).mpr (by
      rw [setSp_sp, setSp_params, hspNat]; omega))
    exact ⟨_, by rw [popHigh, ha, Except.bind, popNext, hpop, sp_add_succ]; rfl⟩

/-- Pushing stops at the first byte whose address lies outside SRAM. -/
theorem pushLow_stops (v : Int) {j n : Nat} {s : State} (hjn : j < n) (h : j = 0 ∨ canPush s j = true)
    (hout : (s.sp - BitVec.ofNat 16 j).toNat < 0x2000 ∨ 0x2000 + s.params.sramSize ≤ (s.sp - BitVec.ofNat 16 j).toNat) :
    ∃ f, s.pushStops v j f ∧ pushLow v n s = .error f := by
  induction n, hjn using Nat.le_induction with
  | base =>
    obtain ⟨t, ht, hpushed, hframe⟩ := pushLow_ok v h
    have hsp : t.sp = s.sp - BitVec.ofNat 16 j := hpushed.1
    have hparams : t.params = s.params := by rw [hframe]
    refine ⟨_, ⟨t, hpushed, hframe, rfl⟩, ?_⟩
    rw [pushLow, ht]
    exact push8_fault (inSram_eq_false (by rw [hparams, hsp]; exact hout))
  | succ n _ ih =>
    obtain ⟨f, hf, hn⟩ := ih
    exact ⟨f, hf, by rw [pushLow, hn]; rfl⟩

/-- Popping stops at the first byte whose address lies outside SRAM. -/
theorem popHigh_stops {j n : Nat} {s : State} (hjn : j < n) (h : j = 0 ∨ canPop s j = true)
    (hout : (s.sp + BitVec.ofNat 16 (j + 1)).toNat < 0x2000 ∨
      0x2000 + s.params.sramSize ≤ (s.sp + BitVec.ofNat 16 (j + 1)).toNat) :
    ∃ f, s.popStops j f ∧ popHigh n s = .error f := by
  induction n, hjn using Nat.le_induction with
  | base =>
    obtain ⟨a, ha⟩ := popHigh_ok h
    rw [sp_add_succ] at hout
    have hpop := pop8_fault (s := s.setSp (s.sp + BitVec.ofNat 16 j)) (inSram_eq_false hout)
    refine ⟨_, rfl, ?_⟩
    rw [popHigh, ha, Except.bind, popNext, hpop, sp_add_succ]
    rfl
  | succ n _ ih =>
    obtain ⟨f, hf, hn⟩ := ih
    exact ⟨f, hf, by rw [popHigh, hn]; rfl⟩

theorem pushPc_stops {v : Int} {j : Nat} {s : State} (hj : j < s.params.retBytes) (h : j = 0 ∨ canPush s j = true)
    (hout : (s.sp - BitVec.ofNat 16 j).toNat < 0x2000 ∨ 0x2000 + s.params.sramSize ≤ (s.sp - BitVec.ofNat 16 j).toNat) :
    ∃ f, s.pushStops v j f ∧ pushPc v s = .error f := by
  rw [pushPc_eq_pushLow]
  exact pushLow_stops v hj h hout

theorem popPc_stops {j : Nat} {s : State} (hj : j < s.params.retBytes) (h : j = 0 ∨ canPop s j = true)
    (hout : (s.sp + BitVec.ofNat 16 (j + 1)).toNat < 0x2000 ∨
      0x2000 + s.params.sramSize ≤ (s.sp + BitVec.ofNat 16 (j + 1)).toNat) :
    ∃ f, s.popStops j f ∧ popPc s = .error f := by
  obtain ⟨f, hf, hpop⟩ := popHigh_stops hj h hout
  exact ⟨f, hf, by rw [popPc_eq_popHigh, hpop]; rfl⟩

/-- A call whose push stops is that fault. -/
theorem callTo_error {ret target : Int} {f : Form} {n : Nat} {s : State} {e : Fault} (h : pushPc ret s = .error e) :
    callTo ret target f n s = .fault e := by
  rw [callTo, h]
  rfl

/-- Settles O39: the byte at which a push or a pop meets an address outside SRAM is the one that stops the instruction. -/
theorem stackOutsideSramFaults : Obligations.StackOutsideSramFaults := by
  unfold Obligations.StackOutsideSramFaults
  intro r d x v k22 k12 l iv s
  refine ⟨fun hout => ?_, fun hout => ?_, fun j hj hroom hout => ?_, fun j hj hroom hout => ?_⟩
  · have hpush (y : Byte) := push8_fault (v := y) (inSram_eq_false hout)
    exact ⟨hpush x, by rw [exec, execPush, hpush]; rfl⟩
  · have hpop := pop8_fault (inSram_eq_false hout)
    exact ⟨hpop, by rw [exec, execPop, hpop]; rfl⟩
  · have hstop (w : Int) := pushPc_stops (v := w) hj hroom hout
    have hcall {i : Instr} {ret target : Int} {f : Form} {n : Nat} (hi : exec i s = callTo ret target f n s) :
        ∃ f, s.pushStops ret j f ∧ exec i s = .fault f := by
      obtain ⟨e, he, hpush⟩ := hstop ret
      exact ⟨e, he, hi.trans (callTo_error hpush)⟩
    refine ⟨hstop v, hcall rfl, hcall rfl, hcall rfl, fun hbig => hcall (if_pos ((bigPc_iff _).mpr hbig)), ?_⟩
    obtain ⟨e, he, hpush⟩ := pushPc_stops (s := s.setPmic (s.pmic.acknowledge l iv)) (v := s.pc) hj hroom hout
    refine ⟨e, he, ?_⟩
    show (pushPc s.pc (s.setPmic (s.pmic.acknowledge l iv))).bind _ = _
    rw [hpush]
    rfl
  · have hclear := pmicRetiClear_frame s
    obtain ⟨f, hf, hpop⟩ := popPc_stops hj hroom hout
    obtain ⟨g, hg, hpopi⟩ := popPc_stops (s := pmicRetiClear s) (by rw [hclear]; exact hj)
      (by rw [hclear]; exact hroom) (by rw [hclear]; exact hout)
    refine ⟨⟨f, hf, hpop⟩, ⟨f, hf, ?_⟩, g, hg, ?_⟩
    · rw [exec, execRet, hpop]
      rfl
    · rw [exec, execReti, interruptReturn, hpopi]
      rfl

/-! ## Flash bytes (R91, R93, R307 to R312) -/

theorem lowByte_pairOf (hi lo : Byte) : lowByte (pairOf hi lo) = lo := by
  rw [lowByte_eq, pairOf_toNat]
  apply BitVec.eq_of_toNat_eq
  rw [BitVec.toNat_ofNat]
  omega

theorem highByte_pairOf (hi lo : Byte) : highByte (pairOf hi lo) = hi := by
  rw [highByte_eq, pairOf_toNat]
  apply BitVec.eq_of_toNat_eq
  rw [BitVec.toNat_ofNat]
  omega

/-- A byte of flash is the half of its word that its address names (R91, R93). -/
theorem flashByte_ok {s : State} {b : Nat} (h : b < s.params.flashSize) : flashByte b s = .ok (s.flashAt b) := by
  simp only [flashByte, if_pos h, State.flashWord, lowByte_pairOf, highByte_pairOf]
  split
  · next heven => rw [show 2 * (b / 2) = b by omega]
  · next hodd => rw [show 2 * (b / 2) + 1 = b by omega]

theorem loadFlash_ok {s : State} {b : Nat} (d : Reg) (h : b < s.params.flashSize) :
    loadFlash b d s = .ok (s.setReg d (s.flashAt b)) := by
  rw [loadFlash, flashByte_ok h]
  rfl

theorem loadFlash_fault {s : State} {b : Nat} (d : Reg) (h : s.params.flashSize ≤ b) :
    loadFlash b d s = .error (raise (.flashReadOutOfRange b) s) := by
  rw [loadFlash, flashByte, if_neg (Nat.not_lt.mpr h)]
  rfl

theorem readsFlash_of_loadFlash {s : State} {i : Instr} {b : Nat} {d : Reg} {f : Form}
    (hi : exec i s = finish (loadFlash b d s) (·.retire 1 f 3)) : s.readsFlash i b d f := by
  refine ⟨fun h => ?_, fun h => ?_⟩
  · rw [hi, loadFlash_ok d h]
    rfl
  · rw [hi, loadFlash_fault d h]
    rfl

/-- What an overlapping load wrote to its pointer is gone once both bytes of the pointer are drawn (R282). -/
theorem drawPair_setPair_setReg {p : Ptr} {d : Reg} (s : State) (v : Byte) (w : Word) (h : p.overlaps d = true) :
    drawPair p ((s.setReg d v).setPair p.lo w) = drawPair p s := by
  have hd : d = p.lo ∨ d = p.lo + 1 := by simpa [Ptr.overlaps] using h
  have hregs (x y : Byte) :
      ((((s.regs.set d v).set p.lo (lowByte w)).set (p.lo + 1 : Reg) (highByte w)).set p.lo x).set (p.lo + 1 : Reg) y =
        (s.regs.set p.lo x).set (p.lo + 1 : Reg) y := by
    ext j hj
    simp only [Vector.getElem_set]
    obtain rfl | rfl := hd <;> grind
  exact congrArg (fun x => { s with regs := x, draws := s.draws + 2 }) (hregs _ _)

theorem logOverlap_of_not {p : Ptr} {r : Reg} (i : Instr) (s : State) (h : p.overlaps r = false) : logOverlap p r i s = s := by
  simp [logOverlap, h]

theorem logOverlap_of_overlaps {p : Ptr} {r : Reg} (i : Instr) (s : State) (h : p.overlaps r = true) :
    logOverlap p r i s = s.record (.undefinedPointerOverlap s.pc (firstWord i)) := by
  simp [logOverlap, h]

theorem logOverlap_frame (p : Ptr) (r : Reg) (i : Instr) (s : State) :
    logOverlap p r i s = { s with log := (logOverlap p r i s).log } := by
  unfold logOverlap
  split <;> rfl

@[simp] theorem logOverlap_ptr (p q : Ptr) (r : Reg) (i : Instr) (s : State) : (logOverlap p r i s).ptr q = s.ptr q := by
  rw [logOverlap_frame]
  rfl

@[simp] theorem logOverlap_full (p q : Ptr) (r : Reg) (i : Instr) (s : State) : (logOverlap p r i s).full q = s.full q := by
  rw [logOverlap_frame]
  cases q <;> rfl

/-- A flash read behind an overlap record answers as one without it. -/
theorem loadFlash_logOverlap_ok {p : Ptr} {d : Reg} (i : Instr) {b : Nat} {s : State} (h : b < s.params.flashSize) :
    loadFlash b d (logOverlap p d i s) = .ok ((logOverlap p d i s).setReg d (s.flashAt b)) := by
  have hframe := logOverlap_frame p d i s
  rw [loadFlash_ok d (by rw [hframe]; exact h)]
  rw [hframe]
  rfl

theorem loadFlash_logOverlap_fault {p : Ptr} {d : Reg} (i : Instr) {b : Nat} {s : State} (h : s.params.flashSize ≤ b) :
    ∃ r, loadFlash b d (logOverlap p d i s) = .error (.flashReadOutOfRange b r) :=
  ⟨_, loadFlash_fault d (by rw [logOverlap_frame]; exact h)⟩

/-- LPM Rd, Z+ is one read and the increment of Z, with or without overlap (R309). -/
theorem exec_lpmZInc (d : Reg) (s : State) : exec (.lpmZInc d) s =
    finish (loadFlash (s.ptr .z).toNat d (logOverlap .z d (.lpmZInc d) s)) fun t =>
      let u := t.setPair 30 (s.ptr .z + 1)
      (if Ptr.z.overlaps d then drawPair .z u else u).retire 1 .lpmZInc 3 := by
  simp only [exec, execLpmZInc, logOverlap_ptr]

/-- ELPM Rd, Z+ is one read and the increment of RAMPZ:Z, with or without overlap (R312). -/
theorem exec_elpmZInc (d : Reg) (s : State) : exec (.elpmZInc d) s =
    finish (loadFlash (s.full .z).toNat d (logOverlap .z d (.elpmZInc d) s)) fun t =>
      (spoilLoad .z d (t.setFull .z (s.full .z + 1))).retire 1 .elpmZInc 3 := by
  simp only [exec, execElpmZInc, logOverlap_full]

/-- Settles O26: each form is one `loadFlash` at its address; what an overlap form loads and increments, its draws replace. -/
theorem flashReads : Obligations.FlashReads := by
  unfold Obligations.FlashReads
  intro d s z ez
  have hz : (s.ptr .z).toNat = z := pairOf_toNat _ _
  have hez : (s.full .z).toNat = ez := (full_toNat s .z).trans (Nat.add_assoc _ _ _)
  have hzInc : BitVec.ofNat 16 (z + 1) = s.ptr .z + 1 := by rw [← hz, BitVec.ofNat_add]; simp
  have hezInc : BitVec.ofNat 24 (ez + 1) = s.full .z + 1 := by rw [← hez, BitVec.ofNat_add]; simp
  rw [hzInc, hezInc, exec_lpmZInc, exec_elpmZInc, hz, hez]
  refine ⟨readsFlash_of_loadFlash (hz ▸ rfl), readsFlash_of_loadFlash (hz ▸ rfl), readsFlash_of_loadFlash (hez ▸ rfl),
    readsFlash_of_loadFlash (hez ▸ rfl), fun hno => ⟨fun h => ?_, fun h => ?_⟩, fun hover => ⟨fun h => ?_, fun h => ?_⟩,
    fun h => ?_, fun h => ?_⟩
  · rw [loadFlash_logOverlap_ok _ h, logOverlap_of_not _ s hno]
    simp only [finish, hno]
    rfl
  · rw [loadFlash_logOverlap_ok _ h, logOverlap_of_not _ s hno]
    simp only [finish, spoilLoad, hno]
    rfl
  · rw [loadFlash_logOverlap_ok _ h, logOverlap_of_overlaps _ s hover]
    simp only [finish, hover, if_true]
    exact congrArg (fun t => Host.Outcome.next (State.retire t 1 .lpmZInc 3)) (drawPair_setPair_setReg (p := .z) _ _ _ hover)
  · rw [loadFlash_logOverlap_ok _ h, logOverlap_of_overlaps _ s hover]
    simp only [finish, spoilLoad, hover, if_true]
    exact congrArg (fun t => Host.Outcome.next (State.retire (drawRamp .z t) 1 .elpmZInc 3))
      (drawPair_setPair_setReg (p := .z) _ _ _ hover)
  · obtain ⟨r, hr⟩ := loadFlash_logOverlap_fault (.lpmZInc d) h
    exact ⟨r, by rw [hr]; rfl⟩
  · obtain ⟨r, hr⟩ := loadFlash_logOverlap_fault (.elpmZInc d) h
    exact ⟨r, by rw [hr]; rfl⟩

/-! ## The router (R80 to R88, R410) -/

/-- No block of the registry owns an address exactly when the address lies outside every range (R82, R90). -/
theorem ioOwnerFrom_eq_none_iff (bs : List BlockDecl) (n a : Nat) :
    ioOwnerFrom bs n a = none ↔ ∀ b ∈ bs, a < b.ioBase ∨ b.ioBase + b.ioSize ≤ a := by
  induction bs generalizing n with
  | nil => simp [ioOwnerFrom]
  | cons b bs ih =>
    rw [ioOwnerFrom, List.forall_mem_cons, ← ih (n + 1)]
    split
    · next hin => exact iff_of_false (by simp) fun h => by omega
    · next hout => exact (and_iff_right (by omega)).symm

/-- The owner of an address stands at its place of the registry (R90). -/
theorem ioOwnerFrom_getElem? {bs : List BlockDecl} {n a k : Nat} {b : BlockDecl} (h : ioOwnerFrom bs n a = some (k, b)) :
    n ≤ k ∧ bs[k - n]? = some b := by
  induction bs generalizing n with
  | nil => cases h
  | cons c cs ih =>
    rw [ioOwnerFrom] at h
    split at h
    · cases h
      simp
    · obtain ⟨hle, hget⟩ := ih h
      obtain ⟨j, rfl⟩ := Nat.exists_eq_add_of_le hle
      refine ⟨by omega, ?_⟩
      rw [show n + 1 + j - n = j + 1 by omega, List.getElem?_cons_succ, ← hget]
      congr 1
      omega

/-- The regions as numbers, in the order of R81. -/
theorem regionOf_eq (p : Params) (a : Nat) : regionOf p a =
    if a < 0x1000 then .io
    else if a < 0x1000 + p.eepromSize then .eeprom
    else if 0x2000 ≤ a ∧ a < 0x2000 + p.sramSize then .sram
    else if 0xFF00 ≤ a ∧ a < 0x10000 then .emulator
    else if 0 < p.exsramSize ∧ p.exsramStart ≤ a ∧ a < p.exsramStart + p.exsramSize then .exsram
    else .unmapped := by
  simp only [regionOf, inSram_iff, memIoSize, memEepromStart, memEmulatorStart, memEmulatorSize]
  by_cases h : a < 0x1000
  · rw [if_pos h, if_pos h]
  · rw [if_neg h, if_neg h]
    simp only [Nat.not_lt.mp h, true_and, Nat.reduceAdd]
    rfl

theorem hookReply_eq (n : Nat) (b : BlockDecl) (r : HookReply) (s : State) :
    hookReply n b r s = serveAll n (if b.callsCore then r.calls else []) (s.setExt n r.data) := by
  unfold hookReply
  split <;> rfl

/-- A byte of the emulator window (R87). -/
theorem emuRead_eq (k : Nat) (s : State) : emuRead k s =
    if k < 4 then (BitVec.ofNat 8 (s.sched.currentSysTick / 256 ^ k), s) else drawByte s := by
  rw [emuRead, Nat.shiftRight_eq_div_pow, Nat.pow_mul]

theorem memRead_io {a : DataAddr} {s : State} (h : a.toNat < 0x1000) : memRead a s = ioRead a.toNat s := by
  simp only [memRead, regionOf_io h]

theorem memWrite_io {a : DataAddr} {v : Byte} {s : State} (h : a.toNat < 0x1000) : memWrite a v s = ioWrite a.toNat v s := by
  simp only [memWrite, regionOf_io h]

/-- The bytes of the reference GPIOR after a write (R410). -/
theorem gpior_setGpior (s : State) (i : Nat) (v : Byte) (j : Fin 16) :
    (s.setGpior i v).gpior[j] = if j.val = i % 16 then v else s.gpior[j] := by
  simp [State.setGpior, Vector.getElem_set, eq_comm]

/-- An access to an owned address goes to the owner, at its local address (R82). -/
theorem ioRead_owned {s : State} {n k : Nat} {b : BlockDecl} (h : ioOwner s.params n = some (k, b)) :
    ioRead n s = blockGetIo k b (n - b.ioBase) s := by
  simp only [ioRead, h]

theorem ioWrite_owned {s : State} {n k : Nat} {b : BlockDecl} (v : Byte) (h : ioOwner s.params n = some (k, b)) :
    ioWrite n v s = blockSetIo k b (n - b.ioBase) v s := by
  simp only [ioWrite, h]

/-- Settles O28: the region of the address picks the arm of the access, and in I/O the kind of its owner does. -/
theorem dataSpaceRouter : Obligations.DataSpaceRouter := by
  unfold Obligations.DataSpaceRouter
  intro a v s n p
  have hregion : regionOf s.params a.toNat = _ := regionOf_eq p n
  split_ifs at hregion ⊢ with hio heeprom hsram hwindow htick hexsram
  · refine ⟨ioOwnerFrom_eq_none_iff _ _ _, fun k b ho => ?_, ?_⟩
    · obtain ⟨-, hget⟩ := ioOwnerFrom_getElem? ho
      obtain ⟨-, hrange⟩ := ioOwnerFrom_some ho
      exact ⟨hget, hrange⟩
    rw [memRead_io hio, memWrite_io hio]
    split
    · next ho =>
      have ho : ioOwner s.params a.toNat = none := ho
      simp only [ioRead, ioWrite, ho]
      exact ⟨rfl, rfl⟩
    · next k b ho =>
      obtain ⟨-, hbase, -⟩ := ioOwnerFrom_some ho
      have haddr : b.ioBase + (n - b.ioBase) = n := Nat.add_sub_cancel' hbase
      rw [ioRead_owned ho, ioWrite_owned v ho]
      simp only [blockGetIo, blockSetIo, haddr, hookReply_eq]
      cases b.kind with
      | cpu | clk | pmic | external => exact ⟨rfl, rfl⟩
      | gpior => exact ⟨rfl, _, rfl, rfl, gpior_setGpior s (n - b.ioBase) v⟩
  · simp only [memRead, memWrite, hregion]
    exact ⟨rfl, rfl⟩
  · exact ⟨memRead_sram hregion, memWrite_sram hregion, fun b => sramAt_setSram s n b v⟩
  · have hk : n - 0xFF00 < 4 := by omega
    simp only [memRead, memWrite, hregion, emuRead_eq]
    exact ⟨congrArg _ (if_pos hk), rfl⟩
  · have hk : ¬ n - 0xFF00 < 4 := by omega
    simp only [memRead, memWrite, hregion, emuRead_eq]
    exact ⟨congrArg _ (if_neg hk), rfl⟩
  · simp only [memRead, memWrite, hregion]
    exact ⟨rfl, rfl⟩
  · simp only [memRead, memWrite, hregion]
    exact ⟨rfl, rfl⟩

end Sys2Proof.Machine
end

section
/-! PROOFS. The statements on encoding (30_encoding.md R120 to R143). A word of a format is a base with numbers in its fields
(`layout_eq_iff`), so a row of the table reads exactly the words its instruction is encoded in (`reads_row`), and the decoder
inverts the encoder (`decode_eq_ok_iff`). -/

namespace Sys2Proof

/-! ## Fields of a word -/

/-- Bits `lo + len - 1 : lo` of a word. -/
def fieldMask (lo len : Nat) : Word := place (2 ^ len - 1) lo

theorem field_lt (op : Word) (lo len : Nat) : field op lo len < 2 ^ len := Nat.mod_lt _ (Nat.two_pow_pos len)

theorem testBit_field (op : Word) (lo len k : Nat) :
    (field op lo len).testBit k = (decide (k < len) && op.getLsbD (lo + k)) := by
  simp [field, Nat.testBit_mod_two_pow, Nat.testBit_shiftRight, BitVec.getLsbD]

theorem getLsbD_place (n lo k : Nat) :
    (place n lo).getLsbD k = (decide (k < 16) && (decide (lo ≤ k) && n.testBit (k - lo))) := by
  simp [place, BitVec.getLsbD_ofNat, Nat.testBit_shiftLeft]

theorem getLsbD_fieldMask (lo len k : Nat) :
    (fieldMask lo len).getLsbD k = (decide (k < 16) && (decide (lo ≤ k) && decide (k - lo < len))) := by
  rw [fieldMask, getLsbD_place, Nat.testBit_two_pow_sub_one]

/-- A field put back in its place. -/
theorem place_field (op : Word) (lo len : Nat) : place (field op lo len) lo = op &&& fieldMask lo len := by
  apply BitVec.eq_of_getLsbD_eq
  intro k hk
  rw [getLsbD_place, testBit_field, BitVec.getLsbD_and, getLsbD_fieldMask]
  by_cases hlo : lo ≤ k
  · simp [hk, hlo, Bool.and_comm]
  · simp [hlo]

/-- A number read back from its place. -/
theorem field_place {n lo len : Nat} (hn : n < 2 ^ len) (hlen : lo + len ≤ 16) : field (place n lo) lo len = n := by
  apply Nat.eq_of_testBit_eq
  intro k
  rw [testBit_field, getLsbD_place]
  by_cases hk : k < len
  · simp [hk, show lo + k < 16 by omega]
  · have hzero : n.testBit k = false :=
      Nat.testBit_lt_two_pow (hn.trans_le (Nat.pow_le_pow_right (by decide) (Nat.le_of_not_lt hk)))
    simp [hk, hzero]

/-- A field depends on its own bits only. -/
theorem field_and_fieldMask (op : Word) {lo len : Nat} (hlen : lo + len ≤ 16) :
    field (op &&& fieldMask lo len) lo len = field op lo len := by
  rw [← place_field, field_place (field_lt op lo len) hlen]

theorem place_and_fieldMask {n lo len : Nat} (hn : n < 2 ^ len) (hlen : lo + len ≤ 16) :
    place n lo &&& fieldMask lo len = place n lo := by
  rw [← place_field, field_place hn hlen]

theorem and_fieldMask_eq_place_iff {op : Word} {n lo len : Nat} (hn : n < 2 ^ len) (hlen : lo + len ≤ 16) :
    op &&& fieldMask lo len = place n lo ↔ field op lo len = n := by
  constructor
  · intro h
    rw [← field_and_fieldMask op hlen, h, field_place hn hlen]
  · rintro rfl
    exact (place_field op lo len).symm

theorem val_regOf (n : Nat) : (regOf n).val = n % 32 := rfl

theorem toNat_append_eq {m n : Nat} (x : BitVec m) (y : BitVec n) : (x ++ y).toNat = x.toNat * 2 ^ n + y.toNat := by
  rw [BitVec.toNat_append, ← Nat.shiftLeft_add_eq_or_of_lt y.isLt, Nat.shiftLeft_eq]

/-! ## Words laid out in fields -/

/-- A field of a format: its lowest bit, its length and the number it holds. -/
structure Slot where
  lo : Nat
  len : Nat
  val : Nat

/-- A base with its fields put in place, the shape of the formats (R123 to R140). -/
def layout (base : Word) : List Slot → Word
  | [] => base
  | f :: fs => layout (base ||| place f.val f.lo) fs

/-- The fields, each by its lowest bit and its length, are disjoint and fill the bits of a word outside `m`. -/
def tiles (m : Word) : List (Nat × Nat) → Bool
  | [] => m == 0xFFFF
  | f :: fs => decide (f.1 + f.2 ≤ 16) && m &&& fieldMask f.1 f.2 == 0 && tiles (m ||| fieldMask f.1 f.2) fs

theorem or_and_or {m m' e p : Word} (he : e &&& m = e) (hp : p &&& m' = p) : (e ||| p) &&& (m ||| m') = e ||| p := by
  rw [← he, ← hp]
  ext k hk
  simp only [BitVec.getElem_and, BitVec.getElem_or]
  cases m[k] <;> cases m'[k] <;> simp

theorem or_and_left {m m' e p : Word} (he : e &&& m = e) (hp : p &&& m' = p) (hd : m' &&& m = 0) : (e ||| p) &&& m = e := by
  rw [BitVec.and_or_distrib_right, he, ← hp, BitVec.and_assoc, hd]
  simp

/-- A word cut at two disjoint masks. -/
theorem and_or_eq_or_iff {m m' e p op : Word} (he : e &&& m = e) (hp : p &&& m' = p) (hd : m &&& m' = 0) :
    op &&& (m ||| m') = e ||| p ↔ op &&& m = e ∧ op &&& m' = p := by
  have hd' : m' &&& m = 0 := BitVec.and_comm m' m ▸ hd
  have part (n : Word) : op &&& n &&& n = op &&& n := by rw [BitVec.and_assoc, BitVec.and_self]
  rw [BitVec.and_or_distrib_left]
  constructor
  · intro h
    constructor
    · rw [← or_and_left (part m) (part m') hd', h, or_and_left he hp hd']
    · rw [← or_and_left (part m') (part m) hd, BitVec.or_comm, h, BitVec.or_comm, or_and_left hp he hd]
  · rintro ⟨rfl, rfl⟩
    rfl

/-- The words of a format: those with the base's bits and the numbers in their fields. -/
theorem layout_eq_iff {fs : List Slot} {m base op : Word} (hb : base &&& m = base)
    (ht : tiles m (fs.map fun f => (f.lo, f.len)) = true) (hn : fs.Forall fun f => f.val < 2 ^ f.len) :
    layout base fs = op ↔ op &&& m = base ∧ fs.Forall fun f => field op f.lo f.len = f.val := by
  induction fs generalizing m base with
  | nil =>
    obtain rfl : m = BitVec.allOnes 16 := by simpa [tiles] using ht
    rw [BitVec.and_allOnes]
    exact eq_comm.trans (and_iff_left trivial).symm
  | cons f fs ih =>
    obtain ⟨⟨hlen, hd⟩, ht⟩ : (f.lo + f.len ≤ 16 ∧ m &&& fieldMask f.lo f.len = 0) ∧
      tiles (m ||| fieldMask f.lo f.len) (fs.map fun f => (f.lo, f.len)) = true := by simpa [tiles] using ht
    obtain ⟨hf, hn⟩ := (List.forall_cons _ _ _).mp hn
    have hp := place_and_fieldMask hf hlen
    rw [layout, ih (or_and_or hb hp) ht hn, and_or_eq_or_iff hb hp hd, and_fieldMask_eq_place_iff hf hlen,
      List.forall_cons, and_assoc]

/-! ## The operands, field by field (R141) -/

section
variable (op : Word)

theorem fieldD5_eq_iff (d : Reg) : fieldD5 op = d ↔ field op 4 5 = d.val := by
  have h0 := field_lt op 4 5
  simp only [fieldD5, Fin.ext_iff, val_regOf]
  omega

theorem fieldR5_eq_iff (d : Reg) : fieldR5 op = d ↔ field op 9 1 = d.val / 16 ∧ field op 0 4 = d.val % 16 := by
  have h0 := field_lt op 9 1
  have h1 := field_lt op 0 4
  simp only [fieldR5, Fin.ext_iff, val_regOf]
  omega

theorem fieldD4_eq_iff (d : Reg) : fieldD4 op = d ↔ isUpper d = true ∧ field op 4 4 = d.val - 16 := by
  have h0 := field_lt op 4 4
  simp only [fieldD4, Fin.ext_iff, val_regOf, isUpper, decide_eq_true_eq]
  omega

theorem fieldR4_eq_iff (d : Reg) : fieldR4 op = d ↔ isUpper d = true ∧ field op 0 4 = d.val - 16 := by
  have h0 := field_lt op 0 4
  simp only [fieldR4, Fin.ext_iff, val_regOf, isUpper, decide_eq_true_eq]
  omega

theorem fieldD3_eq_iff (d : Reg) : fieldD3 op = d ↔ isMid d = true ∧ field op 4 3 = d.val - 16 := by
  have h0 := field_lt op 4 3
  simp only [fieldD3, Fin.ext_iff, val_regOf, isMid, Bool.and_eq_true, decide_eq_true_eq]
  omega

theorem fieldR3_eq_iff (d : Reg) : fieldR3 op = d ↔ isMid d = true ∧ field op 0 3 = d.val - 16 := by
  have h0 := field_lt op 0 3
  simp only [fieldR3, Fin.ext_iff, val_regOf, isMid, Bool.and_eq_true, decide_eq_true_eq]
  omega

theorem fieldPairHi_eq_iff (d : Reg) : fieldPairHi op = d ↔ isPair d = true ∧ field op 4 4 = d.val / 2 := by
  have h0 := field_lt op 4 4
  simp only [fieldPairHi, Fin.ext_iff, val_regOf, isPair, beq_iff_eq]
  omega

theorem fieldPairLo_eq_iff (d : Reg) : fieldPairLo op = d ↔ isPair d = true ∧ field op 0 4 = d.val / 2 := by
  have h0 := field_lt op 0 4
  simp only [fieldPairLo, Fin.ext_iff, val_regOf, isPair, beq_iff_eq]
  omega

theorem fieldPairImm_eq_iff (d : Reg) : fieldPairImm op = d ↔ isWordPair d = true ∧ field op 4 2 = (d.val - 24) / 2 := by
  have h0 := field_lt op 4 2
  simp only [fieldPairImm, Fin.ext_iff, val_regOf, isWordPair, isPair, Bool.and_eq_true, beq_iff_eq, decide_eq_true_eq]
  omega

theorem fieldK8_eq_iff (k : Byte) :
    fieldK8 op = k ↔ field op 8 4 = k.toNat / 16 ∧ field op 0 4 = k.toNat % 16 := by
  have hk : (fieldK8 op).toNat = field op 8 4 * 16 + field op 0 4 := toNat_append_eq _ _
  have hlo := field_lt op 0 4
  rw [← BitVec.toNat_inj, hk]
  omega

theorem fieldK6_eq_iff (k : BitVec 6) :
    fieldK6 op = k ↔ field op 6 2 = k.toNat / 16 ∧ field op 0 4 = k.toNat % 16 := by
  have hk : (fieldK6 op).toNat = field op 6 2 * 16 + field op 0 4 := toNat_append_eq _ _
  have hlo := field_lt op 0 4
  rw [← BitVec.toNat_inj, hk]
  omega

theorem fieldA6_eq_iff (k : BitVec 6) :
    fieldA6 op = k ↔ field op 9 2 = k.toNat / 16 ∧ field op 0 4 = k.toNat % 16 := by
  have hk : (fieldA6 op).toNat = field op 9 2 * 16 + field op 0 4 := toNat_append_eq _ _
  have hlo := field_lt op 0 4
  rw [← BitVec.toNat_inj, hk]
  omega

theorem fieldQ_eq_iff (q : BitVec 6) : fieldQ op = q ↔
    field op 13 1 = q.toNat / 32 ∧ field op 10 2 = q.toNat / 8 % 4 ∧ field op 0 3 = q.toNat % 8 := by
  have hlow : (op.extractLsb' 10 2 ++ op.extractLsb' 0 3).toNat = field op 10 2 * 8 + field op 0 3 := toNat_append_eq _ _
  have hq : (fieldQ op).toNat = field op 13 1 * 32 + _ := toNat_append_eq _ _
  have h10 := field_lt op 10 2
  have h0 := field_lt op 0 3
  rw [← BitVec.toNat_inj, hq, hlow]
  omega

theorem fieldK22_eq_iff (w : Word) (k : BitVec 22) : fieldK22 op w = k ↔
    (field op 4 5 = k.toNat / 0x20000 ∧ field op 0 1 = k.toNat / 0x10000 % 2) ∧ lowWord k = w := by
  have hhigh : (op.extractLsb' 4 5 ++ op.extractLsb' 0 1).toNat = field op 4 5 * 2 + field op 0 1 := toNat_append_eq _ _
  have hk : (fieldK22 op w).toNat = _ * 0x10000 + w.toNat := toNat_append_eq _ _
  have hlow : (lowWord k).toNat = k.toNat % 0x10000 := by simp [lowWord]
  have h0 := field_lt op 0 1
  have hw := w.isLt
  rw [← BitVec.toNat_inj, ← BitVec.toNat_inj, hk, hhigh, hlow]
  omega

theorem fieldK4_eq_iff (k : BitVec 4) : fieldK4 op = k ↔ field op 4 4 = k.toNat := BitVec.toNat_inj.symm

theorem fieldK12_eq_iff (k : BitVec 12) : fieldK12 op = k ↔ field op 0 12 = k.toNat := BitVec.toNat_inj.symm

theorem fieldK7_eq_iff (k : BitVec 7) : fieldK7 op = k ↔ field op 3 7 = k.toNat := BitVec.toNat_inj.symm

theorem fieldA5_eq_iff (k : BitVec 5) : fieldA5 op = k ↔ field op 3 5 = k.toNat := BitVec.toNat_inj.symm

theorem fieldB_eq_iff (b : Bit) : fieldB op = b ↔ field op 0 3 = b.val := by
  have hb : (fieldB op).val = field op 0 3 := Nat.mod_eq_of_lt (field_lt op 0 3)
  rw [Fin.ext_iff, hb]

theorem fieldS_eq_iff (b : Bit) : fieldS op = b ↔ field op 4 3 = b.val := by
  have hb : (fieldS op).val = field op 4 3 := Nat.mod_eq_of_lt (field_lt op 4 3)
  rw [Fin.ext_iff, hb]

end

/-! ## The formats (R123 to R140) -/

section
variable {base op : Word}

theorem encF1_eq_iff (hb : base &&& 0xFC00 = base) (d r : Reg) :
    encF1 base d r = op ↔ op &&& 0xFC00 = base ∧ fieldD5 op = d ∧ fieldR5 op = r := by
  have h : encF1 base d r = op ↔ _ := layout_eq_iff
    (fs := [⟨4, 5, d.val⟩, ⟨9, 1, r.val / 16⟩, ⟨0, 4, r.val % 16⟩]) hb
    (show tiles 0xFC00 [(4, 5), (9, 1), (0, 4)] = true by decide) (by simp only [List.Forall]; omega)
  simp only [h, List.Forall, fieldD5_eq_iff, fieldR5_eq_iff]

theorem encF2_eq_iff (hb : base &&& 0xFF00 = base) (d r : Reg) :
    (isPair d = true ∧ isPair r = true) ∧ encF2 base d r = op ↔
      op &&& 0xFF00 = base ∧ fieldPairHi op = d ∧ fieldPairLo op = r := by
  have h : encF2 base d r = op ↔ _ := layout_eq_iff (fs := [⟨4, 4, d.val / 2⟩, ⟨0, 4, r.val / 2⟩]) hb
    (show tiles 0xFF00 [(4, 4), (0, 4)] = true by decide) (by simp only [List.Forall]; omega)
  simp only [h, List.Forall, fieldPairHi_eq_iff, fieldPairLo_eq_iff]
  tauto

theorem encF3_eq_iff (hb : base &&& 0xFF00 = base) (d r : Reg) :
    (isUpper d = true ∧ isUpper r = true) ∧ encF3 base d r = op ↔
      op &&& 0xFF00 = base ∧ fieldD4 op = d ∧ fieldR4 op = r := by
  have h : encF3 base d r = op ↔ _ := layout_eq_iff (fs := [⟨4, 4, d.val - 16⟩, ⟨0, 4, r.val - 16⟩]) hb
    (show tiles 0xFF00 [(4, 4), (0, 4)] = true by decide) (by simp only [List.Forall]; omega)
  simp only [h, List.Forall, fieldD4_eq_iff, fieldR4_eq_iff]
  tauto

theorem encF4_eq_iff (hb : base &&& 0xFF88 = base) (d r : Reg) :
    (isMid d = true ∧ isMid r = true) ∧ encF4 base d r = op ↔
      op &&& 0xFF88 = base ∧ fieldD3 op = d ∧ fieldR3 op = r := by
  have h (hmid : isMid d = true ∧ isMid r = true) : encF4 base d r = op ↔ _ :=
    layout_eq_iff (fs := [⟨4, 3, d.val - 16⟩, ⟨0, 3, r.val - 16⟩]) hb
      (show tiles 0xFF88 [(4, 3), (0, 3)] = true by decide)
      (by simp only [isMid, Bool.and_eq_true, decide_eq_true_eq] at hmid; simp only [List.Forall]; omega)
  rw [and_congr_right h]
  simp only [List.Forall, fieldD3_eq_iff, fieldR3_eq_iff]
  tauto

theorem encF5_eq_iff (hb : base &&& 0xF000 = base) (d : Reg) (k : Byte) :
    isUpper d = true ∧ encF5 base d k = op ↔ op &&& 0xF000 = base ∧ fieldD4 op = d ∧ fieldK8 op = k := by
  have h : encF5 base d k = op ↔ _ := layout_eq_iff
    (fs := [⟨8, 4, k.toNat / 16⟩, ⟨4, 4, d.val - 16⟩, ⟨0, 4, k.toNat % 16⟩]) hb
    (show tiles 0xF000 [(8, 4), (4, 4), (0, 4)] = true by decide) (by simp only [List.Forall]; omega)
  simp only [h, List.Forall, fieldD4_eq_iff, fieldK8_eq_iff]
  tauto

theorem encF6_eq_iff (hb : base &&& 0xD208 = base) (d : Reg) (q : BitVec 6) :
    encF6 base d q = op ↔ op &&& 0xD208 = base ∧ fieldD5 op = d ∧ fieldQ op = q := by
  have h : encF6 base d q = op ↔ _ := layout_eq_iff
    (fs := [⟨13, 1, q.toNat / 32⟩, ⟨10, 2, q.toNat / 8 % 4⟩, ⟨0, 3, q.toNat % 8⟩, ⟨4, 5, d.val⟩]) hb
    (show tiles 0xD208 [(13, 1), (10, 2), (0, 3), (4, 5)] = true by decide) (by simp only [List.Forall]; omega)
  simp only [h, List.Forall, fieldD5_eq_iff, fieldQ_eq_iff]
  tauto

theorem encF7_eq_iff (hb : base &&& 0xFE0F = base) (d : Reg) :
    encF7 base d = op ↔ op &&& 0xFE0F = base ∧ fieldD5 op = d := by
  have h : encF7 base d = op ↔ _ := layout_eq_iff (fs := [⟨4, 5, d.val⟩]) hb
    (show tiles 0xFE0F [(4, 5)] = true by decide) (by simp only [List.Forall]; omega)
  simp only [h, List.Forall, fieldD5_eq_iff]

/-- The words of F6 with a displacement that is not 0 (R291, R295, R302, R306). -/
theorem encF6_displaced_eq_iff (hb : base &&& 0xD208 = base) (d : Reg) (q : BitVec 6) :
    ¬ q = 0#6 ∧ encF6 base d q = op ↔
      (op &&& 0xD208 = base ∧ ¬ fieldQ op = 0#6) ∧ fieldD5 op = d ∧ fieldQ op = q := by
  rw [encF6_eq_iff hb]
  constructor
  · rintro ⟨hq, hop, hd, rfl⟩
    exact ⟨⟨hop, hq⟩, hd, rfl⟩
  · rintro ⟨⟨hop, hq⟩, hd, rfl⟩
    exact ⟨hq, hop, hd, rfl⟩

/-- With displacement 0 the words of F6 are those of F7 (R128). -/
theorem encF6_zero (base : Word) (d : Reg) : encF6 base d 0#6 = encF7 base d := by simp [encF6, encF7, place]

theorem encF9_eq_iff (hb : base &&& 0xFF8F = base) (s : Bit) :
    encF9 base s = op ↔ op &&& 0xFF8F = base ∧ fieldS op = s := by
  have h : encF9 base s = op ↔ _ := layout_eq_iff (fs := [⟨4, 3, s.val⟩]) hb
    (show tiles 0xFF8F [(4, 3)] = true by decide) (by simp only [List.Forall]; omega)
  simp only [h, List.Forall, fieldS_eq_iff]

theorem encF11_eq_iff (hb : base &&& 0xFF0F = base) (k : BitVec 4) :
    encF11 base k = op ↔ op &&& 0xFF0F = base ∧ fieldK4 op = k := by
  have h : encF11 base k = op ↔ _ := layout_eq_iff (fs := [⟨4, 4, k.toNat⟩]) hb
    (show tiles 0xFF0F [(4, 4)] = true by decide) (by simp only [List.Forall]; omega)
  simp only [h, List.Forall, fieldK4_eq_iff]

theorem encF12_eq_iff (hb : base &&& 0xFE0E = base) (w : Word) (k : BitVec 22) :
    encF12 base k = op ∧ lowWord k = w ↔ op &&& 0xFE0E = base ∧ fieldK22 op w = k := by
  have h : encF12 base k = op ↔ _ := layout_eq_iff (fs := [⟨4, 5, k.toNat / 0x20000⟩, ⟨0, 1, k.toNat / 0x10000 % 2⟩]) hb
    (show tiles 0xFE0E [(4, 5), (0, 1)] = true by decide) (by simp only [List.Forall]; omega)
  simp only [h, List.Forall, fieldK22_eq_iff]
  tauto

theorem encF13_eq_iff (hb : base &&& 0xFF00 = base) (d : Reg) (k : BitVec 6) :
    isWordPair d = true ∧ encF13 base d k = op ↔ op &&& 0xFF00 = base ∧ fieldPairImm op = d ∧ fieldK6 op = k := by
  have h : encF13 base d k = op ↔ _ := layout_eq_iff
    (fs := [⟨6, 2, k.toNat / 16⟩, ⟨4, 2, (d.val - 24) / 2⟩, ⟨0, 4, k.toNat % 16⟩]) hb
    (show tiles 0xFF00 [(6, 2), (4, 2), (0, 4)] = true by decide) (by simp only [List.Forall]; omega)
  simp only [h, List.Forall, fieldPairImm_eq_iff, fieldK6_eq_iff]
  tauto

theorem encF14_eq_iff (hb : base &&& 0xFF00 = base) (a : BitVec 5) (b : Bit) :
    encF14 base a b = op ↔ op &&& 0xFF00 = base ∧ fieldA5 op = a ∧ fieldB op = b := by
  have h : encF14 base a b = op ↔ _ := layout_eq_iff (fs := [⟨3, 5, a.toNat⟩, ⟨0, 3, b.val⟩]) hb
    (show tiles 0xFF00 [(3, 5), (0, 3)] = true by decide) (by simp only [List.Forall]; omega)
  simp only [h, List.Forall, fieldA5_eq_iff, fieldB_eq_iff]

theorem encF15_eq_iff (hb : base &&& 0xF800 = base) (d : Reg) (a : BitVec 6) :
    encF15 base d a = op ↔ op &&& 0xF800 = base ∧ fieldD5 op = d ∧ fieldA6 op = a := by
  have h : encF15 base d a = op ↔ _ := layout_eq_iff
    (fs := [⟨9, 2, a.toNat / 16⟩, ⟨4, 5, d.val⟩, ⟨0, 4, a.toNat % 16⟩]) hb
    (show tiles 0xF800 [(9, 2), (4, 5), (0, 4)] = true by decide) (by simp only [List.Forall]; omega)
  simp only [h, List.Forall, fieldD5_eq_iff, fieldA6_eq_iff]
  tauto

theorem encF16_eq_iff (hb : base &&& 0xF000 = base) (k : BitVec 12) :
    encF16 base k = op ↔ op &&& 0xF000 = base ∧ fieldK12 op = k := by
  have h : encF16 base k = op ↔ _ := layout_eq_iff (fs := [⟨0, 12, k.toNat⟩]) hb
    (show tiles 0xF000 [(0, 12)] = true by decide) (by simp only [List.Forall]; omega)
  simp only [h, List.Forall, fieldK12_eq_iff]

theorem encF17_eq_iff (hb : base &&& 0xFC00 = base) (s : Bit) (k : BitVec 7) :
    encF17 base s k = op ↔ op &&& 0xFC00 = base ∧ fieldB op = s ∧ fieldK7 op = k := by
  have h : encF17 base s k = op ↔ _ := layout_eq_iff (fs := [⟨3, 7, k.toNat⟩, ⟨0, 3, s.val⟩]) hb
    (show tiles 0xFC00 [(3, 7), (0, 3)] = true by decide) (by simp only [List.Forall]; omega)
  simp only [h, List.Forall, fieldB_eq_iff, fieldK7_eq_iff]
  tauto

theorem encF18_eq_iff (hb : base &&& 0xFE08 = base) (r : Reg) (b : Bit) :
    encF18 base r b = op ↔ op &&& 0xFE08 = base ∧ fieldD5 op = r ∧ fieldB op = b := by
  have h : encF18 base r b = op ↔ _ := layout_eq_iff (fs := [⟨4, 5, r.val⟩, ⟨0, 3, b.val⟩]) hb
    (show tiles 0xFE08 [(4, 5), (0, 3)] = true by decide) (by simp only [List.Forall]; omega)
  simp only [h, List.Forall, fieldD5_eq_iff, fieldB_eq_iff]

end

/-! ## The table (R142) -/

theorem and_ffff (op : Word) : op &&& 65535#16 = op := BitVec.and_allOnes

/-- A word that fits two masked patterns makes them agree where both masks look. -/
theorem pat_and_mask_comm {op m m' p p' : Word} (h : op &&& m = p) (h' : op &&& m' = p') : p &&& m' = p' &&& m := by
  rw [← h, ← h', BitVec.and_assoc, BitVec.and_assoc, BitVec.and_comm m m']

/-- The words a row decides: those it accepts, but for the LDD and STD rows (mask 0xD208) only those of displacement not 0, whose
words of displacement 0 an earlier row accepts (R121, R291, R295, R302, R306). -/
def Row.owns (r : Row) (op : Word) : Prop := op &&& r.mask = r.pat ∧ (r.mask = 0xD208 → fieldQ op ≠ 0)

theorem fieldQ_and (op m : Word) : fieldQ (op &&& m) = fieldQ op &&& fieldQ m := by
  simp only [fieldQ, BitVec.extractLsb'_and]
  exact (congrArg _ BitVec.and_append.symm).trans BitVec.and_append.symm

/-- The LD and ST rows take from the LDD and STD rows the words of displacement 0. -/
theorem fieldQ_eq_zero_iff (op : Word) : fieldQ op = 0 ↔ op &&& 0xFE0F = op &&& 0xD208 := by
  constructor
  · intro h
    obtain ⟨h13, h10, h0⟩ := (fieldQ_eq_iff op 0).mp h
    calc op &&& 0xFE0F = op &&& (0xD208 ||| (fieldMask 13 1 ||| fieldMask 10 2 ||| fieldMask 0 3)) := rfl
      _ = op &&& 0xD208 := by
        simp only [BitVec.and_or_distrib_left, ← place_field, h13, h10, h0]
        simp [place]
  · intro h
    calc fieldQ op = fieldQ (op &&& 0xFE0F) := by
            rw [fieldQ_and, show fieldQ 0xFE0F = BitVec.allOnes 6 by decide, BitVec.and_allOnes]
      _ = 0#6 := by rw [h, fieldQ_and, show fieldQ 0xD208 = 0#6 by decide, BitVec.and_zero]

/-- Two rows that can accept one word are an LD or ST row and the LDD or STD row that follows it. -/
theorem rows_pairwise : rows.Pairwise fun r r' =>
    r.pat &&& r'.mask ≠ r'.pat &&& r.mask ∨ (r'.mask = 0xD208 ∧ r.mask = 0xFE0F ∧ r.pat = r'.pat) := by decide +kernel

theorem exists_row_of_displacement :
    ∀ r ∈ rows, r.mask = 0xD208 → ∃ r' ∈ rows, r'.mask = 0xFE0F ∧ r'.pat = r.pat := by
  decide

theorem Row.accepts_iff (r : Row) (op : Word) : r.accepts op = true ↔ op &&& r.mask = r.pat := beq_iff_eq

/-- The first row that accepts a word owns it: before an LDD or STD row stands the row that takes its displacement 0. -/
theorem owns_of_find?_accepts {op : Word} {r : Row} (h : rows.find? (fun r => r.accepts op) = some r) : r.owns op := by
  obtain ⟨hr, as, bs, hrows, has⟩ := List.find?_eq_some_iff_append.mp h
  rw [r.accepts_iff] at hr
  refine ⟨hr, fun hmask hq => ?_⟩
  obtain ⟨r', hmem, hmask', hpat⟩ := exists_row_of_displacement r (by simp [hrows]) hmask
  have hr' : op &&& r'.mask = r'.pat := by rw [hmask', hpat, ← hr, hmask, (fieldQ_eq_zero_iff op).mp hq]
  have hpw := rows_pairwise
  rw [hrows, List.pairwise_append, List.pairwise_cons] at hpw
  obtain ⟨-, ⟨hafter, -⟩, -⟩ := hpw
  rw [hrows, List.mem_append, List.mem_cons] at hmem
  rcases hmem with hbefore | rfl | hbs
  · exact absurd ((r'.accepts_iff op).mpr hr') (by simpa using has r' hbefore)
  · exact absurd (hmask.symm.trans hmask') (by decide)
  · rcases hafter r' hbs with hne | ⟨h, -⟩
    · exact hne (pat_and_mask_comm hr hr')
    · exact absurd (h.symm.trans hmask') (by decide)

/-- No row before the owner of a word accepts it. -/
theorem find?_accepts_of_owns {op : Word} {r : Row} (hmem : r ∈ rows) (ho : r.owns op) :
    rows.find? (fun r => r.accepts op) = some r := by
  obtain ⟨hr, hq⟩ := ho
  obtain ⟨as, bs, hrows⟩ := List.append_of_mem hmem
  refine List.find?_eq_some_iff_append.mpr ⟨(r.accepts_iff op).mpr hr, as, bs, hrows, fun a ha => ?_⟩
  have hpw := rows_pairwise
  rw [hrows, List.pairwise_append] at hpw
  obtain ⟨-, -, hbefore⟩ := hpw
  have hno : ¬ op &&& a.mask = a.pat := fun h => by
    rcases hbefore a ha r List.mem_cons_self with hne | ⟨hmask, hmask', hpat⟩
    · exact hne (pat_and_mask_comm h hr)
    · exact hq hmask ((fieldQ_eq_zero_iff op).mpr (by rw [← hmask', ← hmask, h, hr, hpat]))
  simpa [← a.accepts_iff] using hno

/-- The first row that accepts a word is the one that owns it (R121). -/
theorem find?_accepts_eq_some_iff {op : Word} {r : Row} :
    rows.find? (fun r => r.accepts op) = some r ↔ r ∈ rows ∧ r.owns op :=
  ⟨fun h => ⟨List.mem_of_find?_eq_some h, owns_of_find?_accepts h⟩, fun ⟨hmem, ho⟩ => find?_accepts_of_owns hmem ho⟩

theorem ctorIdx_lt (i : Instr) : i.ctorIdx < rows.length := by
  cases i <;> exact Nat.le_of_ble_eq_true rfl

/-- The row of an instruction: the constructors stand in the order of the rows (R142). -/
def Instr.row (i : Instr) : Row := rows[i.ctorIdx]'(ctorIdx_lt i)

theorem map_ctorIdx_rows (op w : Word) : rows.map (fun r => (r.build op w).ctorIdx) = List.range rows.length := by
  have h1 : rows1.map (fun r => (r.build op w).ctorIdx) = List.range' 0 20 := rfl
  have h21 : rows21.map (fun r => (r.build op w).ctorIdx) = List.range' 20 20 := rfl
  have h41 : rows41.map (fun r => (r.build op w).ctorIdx) = List.range' 40 20 := rfl
  have h61 : rows61.map (fun r => (r.build op w).ctorIdx) = List.range' 60 20 := rfl
  have h81 : rows81.map (fun r => (r.build op w).ctorIdx) = List.range' 80 20 := rfl
  have h101 : rows101.map (fun r => (r.build op w).ctorIdx) = List.range' 100 1 := rfl
  simp only [rows, List.map_append, h1, h21, h41, h61, h81, h101]
  rfl

/-- A row reads its own instruction. -/
theorem row_build {r : Row} (hr : r ∈ rows) (op w : Word) : (r.build op w).row = r := by
  obtain ⟨n, hn, rfl⟩ := List.getElem_of_mem hr
  have h : (rows[n].build op w).ctorIdx = n := by
    have h := congrArg (·[n]?) (map_ctorIdx_rows op w)
    simpa [hn] using h
  simp only [Instr.row, h]

/-- A row reads exactly the words of an instruction: it owns a word and reads the instruction from it and the word after it when
these are the words of the instruction, which is then well formed. -/
def Reads (r : Row) (i : Instr) : Prop :=
  ∀ op w, r.owns op ∧ r.build op w = i ↔ i.wellFormed = true ∧ firstWord i = op ∧ (encode i).getD 1 w = w

theorem reads_mk_iff {m p : Word} {build : Word → Word → Instr} {i : Instr} : Reads ⟨m, p, build⟩ i ↔
    ∀ op w, (op &&& m = p ∧ (m = 0xD208 → fieldQ op ≠ 0)) ∧ build op w = i ↔
      i.wellFormed = true ∧ firstWord i = op ∧ (encode i).getD 1 w = w := Iff.rfl

/-- The row of an instruction without operands. -/
theorem reads_fixed {p : Word} {i : Instr} (hwf : i.wellFormed = true) (he : encode i = [p]) :
    Reads ⟨0xFFFF, p, fun _ _ => i⟩ i := by
  refine reads_mk_iff.mpr fun op w => ?_
  have hop : op &&& 0xFFFF = op := and_ffff op
  rw [hwf, firstWord, he, hop]
  constructor
  · exact fun ⟨⟨hp, _⟩, _⟩ => ⟨rfl, hp.symm, rfl⟩
  · exact fun ⟨_, hp, _⟩ => ⟨⟨hp.symm, fun hmask => absurd hmask (by decide)⟩, rfl⟩

/-- Each instruction's row reads exactly its words, format by format (R123 to R140). -/
theorem reads_row (i : Instr) : Reads i.row i := by
  cases i with
  | nop | ret | reti | sleep | brk | wdr | lpmR0 | elpmR0 | spm | spmZInc | ijmp | eijmp | icall | eicall =>
    exact reads_fixed rfl rfl
  | movw d r =>
    exact reads_mk_iff.mpr fun op w => by simp [firstWord, encode, Instr.wellFormed, encF2_eq_iff]
  | muls d r =>
    exact reads_mk_iff.mpr fun op w => by simp [firstWord, encode, Instr.wellFormed, encF3_eq_iff]
  | mulsu d r | fmul d r | fmuls d r | fmulsu d r =>
    exact reads_mk_iff.mpr fun op w => by simp [firstWord, encode, Instr.wellFormed, encF4_eq_iff]
  | cpc d r | sbc d r | add d r | cpse d r | cp d r | sub d r | adc d r | and d r | eor d r | or d r | mov d r | mul d r =>
    exact reads_mk_iff.mpr fun op w => by simp [firstWord, encode, Instr.wellFormed, encF1_eq_iff]
  | cpi d k | sbci d k | subi d k | ori d k | andi d k | ldi d k =>
    exact reads_mk_iff.mpr fun op w => by simp [firstWord, encode, Instr.wellFormed, encF5_eq_iff]
  | ldZ d | ldY d | stZ d | stY d =>
    exact reads_mk_iff.mpr fun op w => by simp [firstWord, encode, Instr.wellFormed, encF6_zero, encF7_eq_iff]
  | lddZ d q | lddY d q =>
    exact reads_mk_iff.mpr fun op w => by simp [firstWord, encode, Instr.wellFormed, encF6_displaced_eq_iff]
  | stdZ q d | stdY q d =>
    exact reads_mk_iff.mpr fun op w => by
      simp [firstWord, encode, Instr.wellFormed, encF6_displaced_eq_iff, and_comm (a := fieldQ _ = q)]
  | lds d k =>
    exact reads_mk_iff.mpr fun op w => by
      simp [firstWord, encode, Instr.wellFormed, encF7_eq_iff, and_assoc, eq_comm (a := w)]
  | sts k d =>
    exact reads_mk_iff.mpr fun op w => by
      simp [firstWord, encode, Instr.wellFormed, encF7_eq_iff, and_assoc, eq_comm (a := w), and_comm (a := k = w)]
  | ldZInc d | ldZDec d | lpmZ d | lpmZInc d | elpmZ d | elpmZInc d | ldYInc d | ldYDec d | ldX d | ldXInc d | ldXDec d
  | pop d | stZInc d | stZDec d | xch d | las d | lac d | lat d | stYInc d | stYDec d | stX d | stXInc d | stXDec d | push d
  | com d | neg d | swap d | inc d | asr d | lsr d | ror d | dec d =>
    exact reads_mk_iff.mpr fun op w => by simp [firstWord, encode, Instr.wellFormed, encF7_eq_iff]
  | bset s | bclr s =>
    exact reads_mk_iff.mpr fun op w => by simp [firstWord, encode, Instr.wellFormed, encF9_eq_iff]
  | des k =>
    exact reads_mk_iff.mpr fun op w => by simp [firstWord, encode, Instr.wellFormed, encF11_eq_iff]
  | jmp k | call k =>
    exact reads_mk_iff.mpr fun op w => by simp [firstWord, encode, Instr.wellFormed, encF12_eq_iff]
  | adiw d k | sbiw d k =>
    exact reads_mk_iff.mpr fun op w => by simp [firstWord, encode, Instr.wellFormed, encF13_eq_iff]
  | cbi a b | sbic a b | sbi a b | sbis a b =>
    exact reads_mk_iff.mpr fun op w => by simp [firstWord, encode, Instr.wellFormed, encF14_eq_iff]
  | inp d a =>
    exact reads_mk_iff.mpr fun op w => by simp [firstWord, encode, Instr.wellFormed, encF15_eq_iff]
  | outp a d =>
    exact reads_mk_iff.mpr fun op w => by
      simp [firstWord, encode, Instr.wellFormed, encF15_eq_iff, and_comm (a := fieldA6 _ = a)]
  | rjmp k | rcall k =>
    exact reads_mk_iff.mpr fun op w => by simp [firstWord, encode, Instr.wellFormed, encF16_eq_iff]
  | brbs s k | brbc s k =>
    exact reads_mk_iff.mpr fun op w => by simp [firstWord, encode, Instr.wellFormed, encF17_eq_iff]
  | bld d b | bst d b | sbrc d b | sbrs d b =>
    exact reads_mk_iff.mpr fun op w => by simp [firstWord, encode, Instr.wellFormed, encF18_eq_iff]

theorem row_mem (i : Instr) : i.row ∈ rows := List.getElem_mem _

/-! ## Decoding -/

theorem decode_eq_ok_iff_row {op w : Word} {i : Instr} :
    decode op w = .ok i ↔ ∃ r ∈ rows, r.owns op ∧ r.build op w = i := by
  have h : decode op w = .ok i ↔ ∃ r, rows.find? (fun r => r.accepts op) = some r ∧ r.build op w = i := by
    rw [decode]
    split <;> simp [*]
  simp only [h, find?_accepts_eq_some_iff, and_assoc]

/-- The decoder inverts the encoder (R121, R142). -/
theorem decode_eq_ok_iff {op w : Word} {i : Instr} :
    decode op w = .ok i ↔ i.wellFormed = true ∧ firstWord i = op ∧ (encode i).getD 1 w = w := by
  rw [decode_eq_ok_iff_row, ← reads_row i op w]
  constructor
  · rintro ⟨r, hr, ho, rfl⟩
    rw [row_build hr]
    exact ⟨ho, rfl⟩
  · exact fun ⟨ho, hb⟩ => ⟨i.row, row_mem i, ho, hb⟩

theorem decode_eq_error_iff {op w : Word} : (∃ e, decode op w = .error e) ↔ ∀ r ∈ rows, op &&& r.mask ≠ r.pat := by
  have h : (∃ e, decode op w = .error e) ↔ rows.find? (fun r => r.accepts op) = none := by
    rw [decode]
    split <;> simp [*]
  simp [h, ← Row.accepts_iff]

/-- Settles O2: each instruction is well formed, and its words are the ones given. -/
theorem specWordsDecode : Obligations.SpecWordsDecode := by
  unfold Obligations.SpecWordsDecode
  simp only [decode_eq_ok_iff]
  decide

/-- Settles O3: the decoder gives an instruction for exactly its words, and an instruction's own words are such. -/
theorem decodeOfEncode : Obligations.DecodeOfEncode := by
  intro i w hwf
  refine decode_eq_ok_iff.mpr ⟨hwf, rfl, ?_⟩
  cases encode i with
  | nil => rfl
  | cons _ ws => cases ws <;> rfl

/-! ## The second word (R120) -/

theorem length_encode : ∀ i : Instr, Laws.Length.Statement i
  | .nop => Laws.Length.nop | .movw d r => Laws.Length.movw d r | .muls d r => Laws.Length.muls d r
  | .mulsu d r => Laws.Length.mulsu d r | .fmul d r => Laws.Length.fmul d r | .fmuls d r => Laws.Length.fmuls d r
  | .fmulsu d r => Laws.Length.fmulsu d r | .cpc d r => Laws.Length.cpc d r | .sbc d r => Laws.Length.sbc d r
  | .add d r => Laws.Length.add d r | .cpse d r => Laws.Length.cpse d r | .cp d r => Laws.Length.cp d r
  | .sub d r => Laws.Length.sub d r | .adc d r => Laws.Length.adc d r | .and d r => Laws.Length.and d r
  | .eor d r => Laws.Length.eor d r | .or d r => Laws.Length.or d r | .mov d r => Laws.Length.mov d r
  | .cpi d k => Laws.Length.cpi d k | .sbci d k => Laws.Length.sbci d k | .subi d k => Laws.Length.subi d k
  | .ori d k => Laws.Length.ori d k | .andi d k => Laws.Length.andi d k | .ldZ d => Laws.Length.ldZ d
  | .ldY d => Laws.Length.ldY d | .stZ r => Laws.Length.stZ r | .stY r => Laws.Length.stY r | .lddZ d q => Laws.Length.lddZ d q
  | .lddY d q => Laws.Length.lddY d q | .stdZ q r => Laws.Length.stdZ q r | .stdY q r => Laws.Length.stdY q r
  | .lds d k => Laws.Length.lds d k | .ldZInc d => Laws.Length.ldZInc d | .ldZDec d => Laws.Length.ldZDec d
  | .lpmZ d => Laws.Length.lpmZ d | .lpmZInc d => Laws.Length.lpmZInc d | .elpmZ d => Laws.Length.elpmZ d
  | .elpmZInc d => Laws.Length.elpmZInc d | .ldYInc d => Laws.Length.ldYInc d | .ldYDec d => Laws.Length.ldYDec d
  | .ldX d => Laws.Length.ldX d | .ldXInc d => Laws.Length.ldXInc d | .ldXDec d => Laws.Length.ldXDec d
  | .pop d => Laws.Length.pop d | .sts k r => Laws.Length.sts k r | .stZInc r => Laws.Length.stZInc r
  | .stZDec r => Laws.Length.stZDec r | .xch d => Laws.Length.xch d | .las d => Laws.Length.las d | .lac d => Laws.Length.lac d
  | .lat d => Laws.Length.lat d | .stYInc r => Laws.Length.stYInc r | .stYDec r => Laws.Length.stYDec r
  | .stX r => Laws.Length.stX r | .stXInc r => Laws.Length.stXInc r | .stXDec r => Laws.Length.stXDec r
  | .push r => Laws.Length.push r | .com d => Laws.Length.com d | .neg d => Laws.Length.neg d | .swap d => Laws.Length.swap d
  | .inc d => Laws.Length.inc d | .asr d => Laws.Length.asr d | .lsr d => Laws.Length.lsr d | .ror d => Laws.Length.ror d
  | .bset s => Laws.Length.bset s | .bclr s => Laws.Length.bclr s | .ret => Laws.Length.ret | .reti => Laws.Length.reti
  | .sleep => Laws.Length.sleep | .brk => Laws.Length.brk | .wdr => Laws.Length.wdr | .lpmR0 => Laws.Length.lpmR0
  | .elpmR0 => Laws.Length.elpmR0 | .spm => Laws.Length.spm | .spmZInc => Laws.Length.spmZInc | .ijmp => Laws.Length.ijmp
  | .eijmp => Laws.Length.eijmp | .icall => Laws.Length.icall | .eicall => Laws.Length.eicall | .dec d => Laws.Length.dec d
  | .des k => Laws.Length.des k | .jmp k => Laws.Length.jmp k | .call k => Laws.Length.call k
  | .adiw d k => Laws.Length.adiw d k | .sbiw d k => Laws.Length.sbiw d k | .cbi a b => Laws.Length.cbi a b
  | .sbic a b => Laws.Length.sbic a b | .sbi a b => Laws.Length.sbi a b | .sbis a b => Laws.Length.sbis a b
  | .mul d r => Laws.Length.mul d r | .inp d a => Laws.Length.inp d a | .outp a r => Laws.Length.outp a r
  | .rjmp k => Laws.Length.rjmp k | .rcall k => Laws.Length.rcall k | .ldi d k => Laws.Length.ldi d k
  | .brbs s k => Laws.Length.brbs s k | .brbc s k => Laws.Length.brbc s k | .bld d b => Laws.Length.bld d b
  | .bst d b => Laws.Length.bst d b | .sbrc r b => Laws.Length.sbrc r b | .sbrs r b => Laws.Length.sbrs r b

/-- Settles O4: the words of an instruction are its first word and, where that is a two-word form's, one more; the words it is
decoded from are these. -/
theorem encodeOfDecode : Obligations.EncodeOfDecode := by
  intro op w i h
  obtain ⟨hwf, hop, hw⟩ := decode_eq_ok_iff.mp h
  have hlen := length_encode i hwf
  rw [hop] at hlen
  refine ⟨hwf, ?_⟩
  split_ifs at hlen ⊢ with hlong
  · obtain ⟨a, b, he⟩ := List.length_eq_two.mp hlen
    simpa [firstWord, he] using And.intro hop hw
  · obtain ⟨a, he⟩ := List.length_eq_one_iff.mp hlen
    simpa [firstWord, he] using hop

/-! ## The words of no row (R143) -/

/-- A group of words: those that fit a masked pattern, but for the words of a list. -/
structure WordGroup where
  mask : Word
  pat : Word
  except : List Word

def WordGroup.Has (g : WordGroup) (op : Word) : Prop := op &&& g.mask = g.pat ∧ op ∉ g.except

/-- The groups of R143. -/
def unknownGroups : List WordGroup :=
  ⟨0xFF00, 0x0000, [0x0000]⟩ ::
  ([0x9003, 0x9008, 0x900B, 0x9203, 0x9208, 0x920B, 0x9404] : List Word).map (⟨0xFE0F, ·, []⟩) ++
  ([0x9528, 0x9538, 0x9548, 0x9558, 0x9568, 0x9578, 0x95B8] : List Word).map (⟨0xFFFF, ·, []⟩) ++
  [⟨0xFE0F, 0x9409, [0x9409, 0x9419, 0x9509, 0x9519]⟩, ⟨0xFF0F, 0x950B, []⟩, ⟨0xF808, 0xF808, []⟩]

/-- Whether masked patterns accept every word: one of them looks at none of the bits left, or both values of the next bit leave
patterns that do. -/
def covers : List Nat → List (Word × Word) → Bool
  | [], cs => !cs.isEmpty
  | k :: ks, cs =>
    cs.any (fun c => (k :: ks).all fun j => !c.1.getLsbD j && !c.2.getLsbD j) ||
    [false, true].all fun b => covers ks (cs.filter fun c => (b && c.1.getLsbD k) == c.2.getLsbD k)

theorem exists_of_covers {op : Word} {ks : List Nat} {cs : List (Word × Word)} (h : covers ks cs = true)
    (hcs : ∀ c ∈ cs, ∀ k, k ∉ ks → (op &&& c.1).getLsbD k = c.2.getLsbD k) : ∃ c ∈ cs, op &&& c.1 = c.2 := by
  induction ks generalizing cs with
  | nil =>
    obtain ⟨c, hc⟩ := List.exists_mem_of_ne_nil cs (by simpa [covers] using h)
    exact ⟨c, hc, BitVec.eq_of_getLsbD_eq fun k _ => hcs c hc k List.not_mem_nil⟩
  | cons k ks ih =>
    rw [covers, Bool.or_eq_true, List.any_eq_true, List.all_eq_true] at h
    rcases h with ⟨c, hc, hfree⟩ | hsplit
    · refine ⟨c, hc, BitVec.eq_of_getLsbD_eq fun j _ => ?_⟩
      by_cases hj : j ∈ k :: ks
      · have hbits := List.all_eq_true.mp hfree j hj
        rw [Bool.and_eq_true, Bool.not_eq_true', Bool.not_eq_true'] at hbits
        obtain ⟨hmask, hpat⟩ := hbits
        rw [BitVec.getLsbD_and, hmask, hpat, Bool.and_false]
      · exact hcs c hc j hj
    · obtain ⟨c, hc, hfit⟩ := ih (hsplit (op.getLsbD k) (by cases op.getLsbD k <;> simp)) fun c hc j hj => by
        obtain ⟨hmem, hbit⟩ := List.mem_filter.mp hc
        by_cases hjk : j = k
        · simpa [hjk] using hbit
        · exact hcs c hmem j (by simp [hjk, hj])
      exact ⟨c, (List.mem_filter.mp hc).1, hfit⟩

theorem covers_rows_unknownGroups : covers (List.range 16).reverse
    (rows.map (fun r => (r.mask, r.pat)) ++ unknownGroups.map fun g => (g.mask, g.pat)) = true := by decide +kernel

/-- Every word fits a row or a group of R143. -/
theorem row_or_unknownGroup (op : Word) :
    (∃ r ∈ rows, op &&& r.mask = r.pat) ∨ ∃ g ∈ unknownGroups, op &&& g.mask = g.pat := by
  obtain ⟨c, hc, hfit⟩ := exists_of_covers (op := op) covers_rows_unknownGroups fun c _ k hk => by
    have hge : 16 ≤ k := by simpa using hk
    rw [BitVec.getLsbD_of_ge _ _ hge, BitVec.getLsbD_of_ge _ _ hge]
  rw [List.mem_append, List.mem_map, List.mem_map] at hc
  rcases hc with ⟨r, hr, rfl⟩ | ⟨g, hg, rfl⟩
  · exact .inl ⟨r, hr, hfit⟩
  · exact .inr ⟨g, hg, hfit⟩

/-- A row and a group of R143 do not meet, but for the rows of the single words a group leaves out. -/
theorem rows_apart_unknownGroups : ∀ r ∈ rows, ∀ g ∈ unknownGroups,
    r.pat &&& g.mask ≠ g.pat &&& r.mask ∨ (r.mask = 0xFFFF ∧ r.pat ∈ g.except) := by decide +kernel

theorem exists_row_of_except : ∀ g ∈ unknownGroups,
    (g.except.all fun x => rows.any fun r => x &&& r.mask == r.pat) = true := by decide

theorem no_row_iff (op : Word) : (∀ r ∈ rows, op &&& r.mask ≠ r.pat) ↔ ∃ g ∈ unknownGroups, g.Has op := by
  constructor
  · intro hno
    rcases row_or_unknownGroup op with ⟨r, hr, h⟩ | ⟨g, hg, h⟩
    · exact absurd h (hno r hr)
    · refine ⟨g, hg, h, fun hex => ?_⟩
      obtain ⟨r, hr, hfit⟩ := List.any_eq_true.mp (List.all_eq_true.mp (exists_row_of_except g hg) op hex)
      exact hno r hr (beq_iff_eq.mp hfit)
  · rintro ⟨g, hg, h, hex⟩ r hr hfit
    rcases rows_apart_unknownGroups r hr g hg with hne | ⟨hmask, hmem⟩
    · exact hne (pat_and_mask_comm hfit h)
    · have hop : op &&& 0xFFFF = op := and_ffff op
      rw [hmask, hop] at hfit
      exact hex (hfit ▸ hmem)

/-- Settles O5: the words of no row are those of the groups of R143, by `no_row_iff`. -/
theorem unknownWordsExactly : Obligations.UnknownWordsExactly := by
  intro op w
  rw [decode_eq_error_iff, no_row_iff]
  simp [unknownGroups, WordGroup.Has, and_ffff, or_assoc]

end Sys2Proof
end

section
/-! PROOFS. The statement on the bit instructions (40_sreg_bits.md R201 to R204): each writes one bit of a byte with `putFlag`. -/

namespace Sys2Proof.Machine

open Sys2Proof

/-! ## One bit of a byte (R201 to R204) -/

/-- The mask of `putFlag` has bit `b` alone. -/
theorem getLsbD_one_shiftLeft (b k : Bit) : ((1 : Byte) <<< b.val).getLsbD k = (k == b) := by
  have hmask : (1 : Byte) <<< b.val = BitVec.twoPow 8 b.val := (BitVec.twoPow_eq 8 b.val).symm
  rw [hmask, BitVec.getLsbD_twoPow, Bool.eq_iff_iff]
  simpa [Fin.ext_iff] using eq_comm

theorem getLsbD_putFlag (x : Byte) (b : Bit) (v : Bool) (k : Bit) :
    (putFlag x b v).getLsbD k = if k = b then v else x.getLsbD k := by
  cases v with
  | true =>
    rw [putFlag, if_pos rfl, BitVec.getLsbD_or, getLsbD_one_shiftLeft]
    by_cases hk : k = b <;> simp [hk]
  | false =>
    rw [putFlag, if_neg Bool.false_ne_true, BitVec.getLsbD_and, BitVec.getLsbD_not, getLsbD_one_shiftLeft]
    by_cases hk : k = b <;> simp [hk]

/-- Settles O9: each writes one bit by `putFlag`, whose bits `getLsbD_putFlag` gives. -/
theorem bitInstructions : Obligations.BitInstructions := by
  unfold Obligations.BitInstructions
  intro f b d s
  refine ⟨⟨putFlag s.sreg f true, fun k => ?_, rfl⟩, ⟨putFlag s.sreg f false, fun k => ?_, rfl⟩,
    ⟨putFlag s.sreg 6 ((s.reg d).getLsbD b), fun k => getLsbD_putFlag _ _ _ k, rfl⟩,
    ⟨putFlag (s.reg d) b (flagT s.sreg), fun k => getLsbD_putFlag _ _ _ k, rfl⟩⟩
  · rw [flag, getLsbD_putFlag]
    by_cases hk : k = f <;> simp [flag, hk]
  · rw [flag, getLsbD_putFlag]
    by_cases hk : k = f <;> simp [flag, hk]

end Sys2Proof.Machine
end

section
/-! PROOFS. The statements on the unary arithmetic instructions (41_unary.md R210 to R218): bits and results of a byte as
arithmetic on its number, and from them the flags. -/

namespace Sys2Proof.Machine

open Sys2Proof

/-! ## Bits, comparisons and results as arithmetic -/

theorem bit_eq_decide (x : Byte) (i : Nat) : bit x i = decide (x.toNat / 2 ^ i % 2 = 1) := Nat.testBit_eq_decide_div_mod_eq

theorem bit_seven (x : Byte) : bit x 7 = decide (128 ≤ x.toNat) := BitVec.msb_eq_decide x

theorem bit_zero (x : Byte) : bit x 0 = decide (x.toNat % 2 = 1) := by rw [bit_eq_decide, Nat.pow_zero, Nat.div_one]

/-- Stated for the literals the flag rules compare with, such as 0x80. -/
theorem beq_ofNat_eq_decide (x : Byte) (n : Nat) : (x == OfNat.ofNat n) = decide (x.toNat = OfNat.ofNat n % 256) := by
  rw [Bool.eq_iff_iff, beq_iff_eq, decide_eq_true_iff, ← BitVec.toNat_inj]
  rfl

theorem toNat_allOnes_sub (a : Byte) : (0xFF - a).toNat = 255 - a.toNat := by
  bv_omega

theorem toNat_zero_sub (a : Byte) : (0 - a).toNat = (256 - a.toNat) % 256 := by simp

theorem toNat_sub_one (a : Byte) : (a - 1).toNat = (a.toNat + 255) % 256 := by
  rw [BitVec.toNat_sub, Nat.add_comm]
  rfl

theorem toNat_swap (a : Byte) :
    (a.extractLsb' 0 4 ++ a.extractLsb' 4 4).toNat = a.toNat % 16 * 16 + a.toNat / 16 := by
  have := a.isLt
  rw [toNat_append_add, BitVec.extractLsb'_toNat, BitVec.extractLsb'_toNat, Nat.shiftRight_eq_div_pow,
    Nat.shiftRight_eq_div_pow]
  omega

theorem toNat_shiftIn (top : Bool) (a : Byte) : (shiftIn top a).toNat = a.toNat / 2 + 128 * top.toNat := by
  have := a.isLt
  rw [shiftIn, toNat_append_add, BitVec.toNat_ofBool, BitVec.extractLsb'_toNat, Nat.shiftRight_eq_div_pow]
  omega

/-- The bit put in becomes bit 7. -/
theorem bit_seven_shiftIn (top : Bool) (a : Byte) : bit (shiftIn top a) 7 = top := by
  have := a.isLt
  rw [bit_seven, toNat_shiftIn]
  cases top with
  | false => rw [Bool.toNat_false, decide_eq_false_iff_not]; omega
  | true => rw [Bool.toNat_true, decide_eq_true_iff]; omega

/-! ## The next state of a unary instruction (R210) -/

theorem unaryOp_eq {d : Reg} {res sreg sreg' : Byte} {f : Form} {s : State} {n : Nat} (hres : res.toNat = n % 256)
    (hsreg : sreg = sreg') : unaryOp d res sreg f s = .next { s with
      regs := s.regs.set d (BitVec.ofNat 8 n), sreg := sreg', pc := s.pc + 1
      instructionCycles := s.params.cyclesOf f 1 } := by
  have hn : BitVec.ofNat 8 n = res := BitVec.eq_of_toNat_eq hres.symm
  rw [hn, ← hsreg]
  rfl

/-! ## COM, NEG, INC, DEC and SWAP (R211 to R215) -/

theorem comFlags_allOnes_sub (sreg a : Byte) : comFlags sreg (0xFF - a) =
    putHVNZC sreg (flagH sreg) false (decide (a.toNat < 128)) (decide (a.toNat = 255)) true := by
  have ha := a.isLt
  have hres := toNat_allOnes_sub a
  have hn : bit (0xFF - a) 7 = decide (a.toNat < 128) := by
    rw [bit_seven, decide_eq_decide]; omega
  have hz : (0xFF - a == 0) = decide (a.toNat = 255) := by
    rw [beq_ofNat_eq_decide, decide_eq_decide]; omega
  rw [comFlags, hn, hz]

/-- `0 - a` has the low bits of `16 - a % 16`, so bit 3 is set in it or in `a` unless `a % 16 = 0`. -/
theorem negFlags_zero_sub (sreg a : Byte) : negFlags sreg a (0 - a) =
    putHVNZC sreg (decide (a.toNat % 16 ≠ 0)) (decide (a.toNat = 128)) (decide (0 < a.toNat ∧ a.toNat ≤ 128))
      (decide (a.toNat = 0)) (decide (a.toNat ≠ 0)) := by
  have ha := a.isLt
  have hres := toNat_zero_sub a
  have hh : (bit (0 - a) 3 || bit a 3) = decide (a.toNat % 16 ≠ 0) := by
    rw [bit_eq_decide, bit_eq_decide, ← Bool.decide_or, decide_eq_decide]; omega
  have hv : (0 - a == 0x80) = decide (a.toNat = 128) := by
    rw [beq_ofNat_eq_decide, decide_eq_decide]; omega
  have hn : bit (0 - a) 7 = decide (0 < a.toNat ∧ a.toNat ≤ 128) := by
    rw [bit_seven, decide_eq_decide]; omega
  have hz : (0 - a == 0) = decide (a.toNat = 0) := by
    rw [beq_ofNat_eq_decide, decide_eq_decide]; omega
  rw [negFlags, bne, hh, hv, hn, hz, ← decide_not]

theorem incFlags_add_one (sreg a : Byte) : incFlags sreg (a + 1) =
    putHVNZC sreg (flagH sreg) (decide (a.toNat = 127)) (decide (127 ≤ a.toNat ∧ a.toNat < 255)) (decide (a.toNat = 255))
      (flagC sreg) := by
  have ha := a.isLt
  have hres : (a + 1).toNat = (a.toNat + 1) % 256 := BitVec.toNat_add a 1
  have hv : (a + 1 == 0x80) = decide (a.toNat = 127) := by
    rw [beq_ofNat_eq_decide, decide_eq_decide]; omega
  have hn : bit (a + 1) 7 = decide (127 ≤ a.toNat ∧ a.toNat < 255) := by
    rw [bit_seven, decide_eq_decide]; omega
  have hz : (a + 1 == 0) = decide (a.toNat = 255) := by
    rw [beq_ofNat_eq_decide, decide_eq_decide]; omega
  rw [incFlags, hv, hn, hz]

theorem decFlags_sub_one (sreg a : Byte) : decFlags sreg (a - 1) =
    putHVNZC sreg (flagH sreg) (decide (a.toNat = 128)) (decide (a.toNat = 0 ∨ 129 ≤ a.toNat)) (decide (a.toNat = 1))
      (flagC sreg) := by
  have ha := a.isLt
  have hres := toNat_sub_one a
  have hv : (a - 1 == 0x7F) = decide (a.toNat = 128) := by
    rw [beq_ofNat_eq_decide, decide_eq_decide]; omega
  have hn : bit (a - 1) 7 = decide (a.toNat = 0 ∨ 129 ≤ a.toNat) := by
    rw [bit_seven, decide_eq_decide]; omega
  have hz : (a - 1 == 0) = decide (a.toNat = 1) := by
    rw [beq_ofNat_eq_decide, decide_eq_decide]; omega
  rw [decFlags, hv, hn, hz]

/-- Settles O10: each instruction is one `unaryOp`, whose result and flags the lemmas above give as arithmetic. -/
theorem unaryResults : Obligations.UnaryResults := by
  unfold Obligations.UnaryResults
  intro d s
  have ha := (s.reg d).isLt
  have hcom := toNat_allOnes_sub (s.reg d)
  have hswap := toNat_swap (s.reg d)
  exact ⟨unaryOp_eq (by omega) (comFlags_allOnes_sub ..), unaryOp_eq (toNat_zero_sub _) (negFlags_zero_sub ..),
    unaryOp_eq (BitVec.toNat_add _ 1) (incFlags_add_one ..), unaryOp_eq (toNat_sub_one _) (decFlags_sub_one ..),
    unaryOp_eq (by omega) rfl⟩

/-! ## ASR, LSR and ROR (R216 to R218) -/

/-- N is the bit put in, C the bit shifted out. -/
theorem shiftFlags_shiftIn (sreg a : Byte) (top : Bool) : shiftFlags sreg a (shiftIn top a) =
    putHVNZC sreg (flagH sreg) (top ^^ decide (a.toNat % 2 = 1)) top (decide (a.toNat / 2 + 128 * top.toNat = 0))
      (decide (a.toNat % 2 = 1)) := by
  rw [shiftFlags, bit_seven_shiftIn, bit_zero, beq_ofNat_eq_decide, toNat_shiftIn]

/-- The three shifts differ only in the bit they put in. -/
theorem unaryOp_shiftIn {d : Reg} {top : Bool} {f : Form} {s : State} {n : Nat}
    (hn : n = (s.reg d).toNat / 2 + 128 * top.toNat) :
    unaryOp d (shiftIn top (s.reg d)) (shiftFlags s.sreg (s.reg d) (shiftIn top (s.reg d))) f s = .next { s with
      regs := s.regs.set d (BitVec.ofNat 8 n)
      sreg := putHVNZC s.sreg (flagH s.sreg) (top ^^ decide ((s.reg d).toNat % 2 = 1)) top (decide (n = 0))
        (decide ((s.reg d).toNat % 2 = 1))
      pc := s.pc + 1, instructionCycles := s.params.cyclesOf f 1 } := by
  subst hn
  refine unaryOp_eq ?_ (shiftFlags_shiftIn ..)
  rw [← toNat_shiftIn, Nat.mod_eq_of_lt (shiftIn top (s.reg d)).isLt]

/-- Settles O11: each instruction is a `shiftIn` of its own top bit, whose next state `unaryOp_shiftIn` gives. -/
theorem shiftResults : Obligations.ShiftResults := by
  unfold Obligations.ShiftResults
  intro d s
  refine ⟨?_, unaryOp_shiftIn (top := false) rfl, unaryOp_shiftIn rfl⟩
  rw [exec, execAsr, bit_seven]
  refine unaryOp_shiftIn ?_
  by_cases hneg : 128 ≤ (s.reg d).toNat <;> simp [hneg]

end Sys2Proof.Machine
end

section
/-! PROOFS. The statements on two-register and immediate arithmetic, compares, logic and copies (42_binary.md, 44_immediate.md,
45_word.md R271). A subtraction is an addition read backwards: `a - b - cin = res` says `res + b + cin = a`, and the flag formulas
of R232 are those of R231 with `a` and `res` exchanged. So each flag is proved of an addition once. -/

namespace Sys2Proof.Machine

open Sys2Proof

/-! ## Sums and differences of bytes (R231, R232) -/

theorem toNat_carryByte (cin : Bool) : (carryByte cin).toNat = cin.toNat := by cases cin <;> rfl

theorem toNat_addBytes (a b : Byte) (cin : Bool) :
    (addBytes a b cin).toNat = (a.toNat + b.toNat + cin.toNat) % 256 := by
  rw [addBytes, BitVec.toNat_add, BitVec.toNat_add, toNat_carryByte, Nat.mod_add_mod]

/-- With 512 added, so that no subtraction of naturals is cut off at 0. -/
theorem toNat_subBytes (a b : Byte) (cin : Bool) :
    (subBytes a b cin).toNat = (a.toNat + 512 - b.toNat - cin.toNat) % 256 := by
  have hb := b.isLt
  have hc := cin.toNat_le
  rw [subBytes, BitVec.toNat_sub, BitVec.toNat_sub, toNat_carryByte]
  omega

theorem addBytes_subBytes (a b : Byte) (cin : Bool) : addBytes (subBytes a b cin) b cin = a := by
  rw [addBytes, subBytes, BitVec.sub_add_comm, BitVec.sub_add_cancel, BitVec.sub_add_cancel]

theorem addBytes_eq_ofNat (a b : Byte) (cin : Bool) :
    addBytes a b cin = BitVec.ofNat 8 (a.toNat + b.toNat + cin.toNat) :=
  BitVec.eq_of_toNat_eq (toNat_addBytes a b cin)

theorem subBytes_eq_ofInt (a b : Byte) (cin : Bool) :
    subBytes a b cin = BitVec.ofInt 8 (a.toNat - b.toNat - cin.toNat) := by
  have hb := b.isLt
  have hc := cin.toNat_le
  apply BitVec.eq_of_toNat_eq
  rw [toNat_subBytes, BitVec.toNat_ofInt]
  omega

section flags

variable {a b res : Byte} {cin : Bool}

/-! ## The flags of a sum -/

theorem toNat_of_addBytes (h : addBytes a b cin = res) : res.toNat = (a.toNat + b.toNat + cin.toNat) % 256 :=
  h ▸ toNat_addBytes a b cin

/-- Bits 3 of the operands and of the sum tell the carry out of bit 3. -/
theorem halfCarry_eq_decide (h : addBytes a b cin = res) :
    ((bit a 3 && bit b 3) || (bit b 3 && !bit res 3) || (!bit res 3 && bit a 3)) =
      decide (15 < a.toNat % 16 + b.toNat % 16 + cin.toNat) := by
  have hc := cin.toNat_le
  have hres := toNat_of_addBytes h
  simp only [bit_eq_decide, ← Bool.decide_and, ← Bool.decide_or, ← decide_not, decide_eq_decide]
  omega

/-- Bits 7 of the operands and of the sum tell the carry out of bit 7. -/
theorem carry_eq_decide (h : addBytes a b cin = res) :
    ((bit a 7 && bit b 7) || (bit b 7 && !bit res 7) || (!bit res 7 && bit a 7)) =
      decide (255 < a.toNat + b.toNat + cin.toNat) := by
  have ha := a.isLt
  have hb := b.isLt
  have hc := cin.toNat_le
  have hres := toNat_of_addBytes h
  simp only [bit_seven, ← Bool.decide_and, ← Bool.decide_or, ← decide_not, decide_eq_decide]
  omega

/-- The signs of the operands and of the sum tell whether the signed sum leaves the range of a byte. -/
theorem overflow_eq_decide (h : addBytes a b cin = res) :
    ((bit a 7 && bit b 7 && !bit res 7) || (!bit a 7 && !bit b 7 && bit res 7)) =
      decide (a.toInt + b.toInt + cin.toNat < -128 ∨ 127 < a.toInt + b.toInt + cin.toNat) := by
  have ha := a.isLt
  have hb := b.isLt
  have hc := cin.toNat_le
  have hres := toNat_of_addBytes h
  simp only [bit_seven, BitVec.toInt_eq_toNat_cond, ← Bool.decide_and, ← Bool.decide_or, ← decide_not, decide_eq_decide]
  omega

theorem addFlags_addBytes (sreg a b : Byte) (cin : Bool) :
    addFlags sreg a b (addBytes a b cin) = sumSreg sreg a b cin := by
  rw [addFlags, halfCarry_eq_decide rfl, overflow_eq_decide rfl, carry_eq_decide rfl, bit_seven,
    beq_ofNat_eq_decide, toNat_addBytes]
  rfl

/-! ## The flags of a difference: those of the sum it undoes -/

theorem borrow_formula (x y z : Bool) :
    ((!x && y) || (y && z) || (z && !x)) = ((z && y) || (y && !x) || (!x && z)) := by
  cases x <;> cases y <;> cases z <;> rfl

theorem halfBorrow_eq_decide (h : addBytes res b cin = a) :
    ((!bit a 3 && bit b 3) || (bit b 3 && bit res 3) || (bit res 3 && !bit a 3)) =
      decide (a.toNat % 16 < b.toNat % 16 + cin.toNat) := by
  have hc := cin.toNat_le
  have ha := toNat_of_addBytes h
  rw [borrow_formula, halfCarry_eq_decide h, decide_eq_decide]
  omega

theorem borrow_eq_decide (h : addBytes res b cin = a) :
    ((!bit a 7 && bit b 7) || (bit b 7 && bit res 7) || (bit res 7 && !bit a 7)) =
      decide (a.toNat < b.toNat + cin.toNat) := by
  have hb := b.isLt
  have hc := cin.toNat_le
  have hres := res.isLt
  have ha := toNat_of_addBytes h
  rw [borrow_formula, carry_eq_decide h, decide_eq_decide]
  omega

theorem differenceOverflow_formula (x y z : Bool) :
    ((x && !y && !z) || (!x && y && z)) = ((z && y && !x) || (!z && !y && x)) := by
  cases x <;> cases y <;> cases z <;> rfl

/-- The signed difference leaves the range of a byte when the signed sum does: both are off by the same 256. -/
theorem differenceOverflow_eq_decide (h : addBytes res b cin = a) :
    ((bit a 7 && !bit b 7 && !bit res 7) || (!bit a 7 && bit b 7 && bit res 7)) =
      decide (a.toInt - b.toInt - cin.toNat < -128 ∨ 127 < a.toInt - b.toInt - cin.toNat) := by
  have hb := b.isLt
  have hc := cin.toNat_le
  have hres := res.isLt
  have ha := toNat_of_addBytes h
  rw [differenceOverflow_formula, overflow_eq_decide h, decide_eq_decide]
  simp only [BitVec.toInt_eq_toNat_cond]
  omega

theorem subFlags_subBytes (sreg a b : Byte) (cin keepZ : Bool) :
    subFlags sreg a b (subBytes a b cin) keepZ = differenceSreg sreg a b cin keepZ := by
  have h := addBytes_subBytes a b cin
  rw [subFlags, halfBorrow_eq_decide h, differenceOverflow_eq_decide h, borrow_eq_decide h, bit_seven,
    beq_ofNat_eq_decide, toNat_subBytes]
  rfl

end flags

theorem logicFlags_eq_logicSreg (sreg res : Byte) : logicFlags sreg res = logicSreg sreg res := by
  rw [logicFlags, bit_seven, beq_ofNat_eq_decide]
  rfl

/-! ## The next state of each shared operation -/

theorem addInto_eq (d : Reg) (b : Byte) (cin : Bool) (f : Form) (s : State) : addInto d b cin f s = .next { s with
    regs := s.regs.set d (BitVec.ofNat 8 ((s.reg d).toNat + b.toNat + cin.toNat)), sreg := sumSreg s.sreg (s.reg d) b cin
    pc := s.pc + 1, instructionCycles := s.params.cyclesOf f 1 } := by
  rw [addInto, addFlags_addBytes, addBytes_eq_ofNat]
  rfl

theorem subInto_eq (d : Reg) (b : Byte) (cin keepZ : Bool) (f : Form) (s : State) : subInto d b cin keepZ f s = .next { s with
    regs := s.regs.set d (BitVec.ofInt 8 ((s.reg d).toNat - b.toNat - cin.toNat))
    sreg := differenceSreg s.sreg (s.reg d) b cin keepZ, pc := s.pc + 1, instructionCycles := s.params.cyclesOf f 1 } := by
  rw [subInto, subFlags_subBytes, subBytes_eq_ofInt]
  rfl

theorem compareWith_eq (d : Reg) (b : Byte) (cin keepZ : Bool) (f : Form) (s : State) :
    compareWith d b cin keepZ f s = .next { s with
      sreg := differenceSreg s.sreg (s.reg d) b cin keepZ, pc := s.pc + 1
      instructionCycles := s.params.cyclesOf f 1 } := by
  rw [compareWith, subFlags_subBytes]
  rfl

theorem logicInto_eq (d : Reg) (v : Byte) (f : Form) (s : State) : logicInto d v f s = .next { s with
    regs := s.regs.set d v, sreg := logicSreg s.sreg v, pc := s.pc + 1
    instructionCycles := s.params.cyclesOf f 1 } := by
  rw [logicInto, logicFlags_eq_logicSreg]
  rfl

/-- A pair written with another pair's value copies both registers (R13, R271). -/
theorem reg_setPair_pair (d r j : Reg) (s : State) : (s.setPair d (s.pair r)).reg j =
    if j = d then s.reg r else if j = d + 1 then s.reg (r + 1) else s.reg j := by
  rw [reg_setPair, ← lowByte_eq, ← highByte_eq, State.pair, lowByte_pairOf, highByte_pairOf]

/-! ## The instructions -/

/-- Settles O12: both are `addInto`, ADD with no carry in. -/
theorem addResults : Obligations.AddResults := by
  unfold Obligations.AddResults
  intro d r s
  exact ⟨addInto_eq d (s.reg r) false .add s, addInto_eq d (s.reg r) (flagC s.sreg) .adc s⟩

/-- Settles O13: all four are `subInto`. -/
theorem subtractResults : Obligations.SubtractResults := by
  unfold Obligations.SubtractResults
  intro d r k s
  exact ⟨subInto_eq .., subInto_eq .., subInto_eq .., subInto_eq ..⟩

/-- Settles O14: all three are `compareWith`. -/
theorem compareResults : Obligations.CompareResults := by
  unfold Obligations.CompareResults
  intro d r k s
  exact ⟨compareWith_eq .., compareWith_eq .., compareWith_eq ..⟩

/-- Settles O15: all five are `logicInto` of a bitwise operation. -/
theorem logicResults : Obligations.LogicResults := by
  unfold Obligations.LogicResults
  intro d r k s
  exact ⟨⟨_, fun _ => BitVec.getLsbD_and, logicInto_eq ..⟩, ⟨_, fun _ => BitVec.getLsbD_or, logicInto_eq ..⟩,
    ⟨_, fun _ => BitVec.getLsbD_xor, logicInto_eq ..⟩, ⟨_, fun _ => BitVec.getLsbD_and, logicInto_eq ..⟩,
    ⟨_, fun _ => BitVec.getLsbD_or, logicInto_eq ..⟩⟩

/-- Settles O16: each writes its registers through `setReg` or `setPair` and then retires. -/
theorem copyResults : Obligations.CopyResults := by
  unfold Obligations.CopyResults
  intro d r k s
  refine ⟨⟨_, rfl, fun j => ?_, rfl⟩, ⟨_, rfl, fun j => ?_, rfl⟩, ⟨_, rfl, fun j => ?_, rfl⟩⟩
  · simp only [reg_retire, reg_setReg, eq_comm (a := j)]
  · simp only [reg_retire, reg_setReg, eq_comm (a := j)]
  · rw [reg_retire, reg_setPair_pair]

end Sys2Proof.Machine
end

section
/-! PROOFS. The statements on the multiplies (43_multiply.md). The model keeps an exact product as its residue modulo 2^16, the
word `BitVec.ofInt 16 p`; each byte and flag that a multiply takes from that word is given here by arithmetic on `p` itself. -/

namespace Sys2Proof.Machine

open Sys2Proof

/-! ## The residue of an integer as a word -/

theorem lowByte_ofInt (v : Int) : lowByte (BitVec.ofInt 16 v) = BitVec.ofInt 8 v := by
  apply BitVec.eq_of_toNat_eq
  rw [lowByte_eq, BitVec.toNat_ofNat, BitVec.toNat_ofInt, BitVec.toNat_ofInt]
  omega

theorem highByte_ofInt (v : Int) : highByte (BitVec.ofInt 16 v) = BitVec.ofInt 8 (v / 256) := by
  apply BitVec.eq_of_toNat_eq
  rw [highByte_eq, BitVec.toNat_ofNat, BitVec.toNat_ofInt, BitVec.toNat_ofInt]
  omega

theorem ofInt_shiftLeft_one (v : Int) : BitVec.ofInt 16 v <<< 1 = BitVec.ofInt 16 (2 * v) := by
  apply BitVec.eq_of_toNat_eq
  rw [BitVec.toNat_shiftLeft, BitVec.toNat_ofInt, BitVec.toNat_ofInt, Nat.shiftLeft_eq]
  omega

theorem ofInt_beq_zero (v : Int) : (BitVec.ofInt 16 v == 0) = decide (v % 65536 = 0) := by
  rw [Bool.eq_iff_iff, beq_iff_eq, decide_eq_true_iff, ← BitVec.toNat_inj, BitVec.toNat_ofInt]
  change (v % 65536).toNat = 0 ↔ v % 65536 = 0
  omega

theorem getLsbD_fifteen_ofInt (v : Int) : (BitVec.ofInt 16 v).getLsbD 15 = decide (v / 32768 % 2 = 1) := by
  rw [BitVec.getLsbD, Nat.testBit_eq_decide_div_mod_eq, BitVec.toNat_ofInt, decide_eq_decide]
  omega

/-! ## The next state of a multiply (R250) -/

theorem mulFlags_ofInt (sreg : Byte) (p v : Int) :
    mulFlags sreg (BitVec.ofInt 16 p) (BitVec.ofInt 16 v) = productSreg sreg p v := by
  rw [mulFlags, ofInt_beq_zero, getLsbD_fifteen_ofInt, productSreg]

theorem multiply_ofInt (p v : Int) (f : Form) (s : State) :
    multiply (BitVec.ofInt 16 p) (BitVec.ofInt 16 v) f s = .next { s with
      regs := (s.regs.set 0 (BitVec.ofInt 8 v)).set 1 (BitVec.ofInt 8 (v / 256)), sreg := productSreg s.sreg p v
      pc := s.pc + 1, instructionCycles := s.params.cyclesOf f 2 } := by
  rw [multiply, mulFlags_ofInt, State.setPair, lowByte_ofInt, highByte_ofInt]
  rfl

/-- The fractional forms: the product shifted left by one is the residue of twice the exact product. -/
theorem multiply_shiftLeft_one (p : Int) (f : Form) (s : State) :
    multiply (BitVec.ofInt 16 p) (BitVec.ofInt 16 p <<< 1) f s = .next { s with
      regs := (s.regs.set 0 (BitVec.ofInt 8 (2 * p))).set 1 (BitVec.ofInt 8 (2 * p / 256))
      sreg := productSreg s.sreg p (2 * p), pc := s.pc + 1, instructionCycles := s.params.cyclesOf f 2 } := by
  rw [ofInt_shiftLeft_one, multiply_ofInt]

/-- Settles O17: the first three are `multiply_ofInt` at the exact product, the fractional three `multiply_shiftLeft_one`. -/
theorem multiplyResults : Obligations.MultiplyResults := by
  unfold Obligations.MultiplyResults
  intro d r s
  exact ⟨multiply_ofInt .., multiply_ofInt .., multiply_ofInt .., multiply_shiftLeft_one .., multiply_shiftLeft_one ..,
    multiply_shiftLeft_one ..⟩

end Sys2Proof.Machine
end

section
/-! PROOFS. The statement on the word immediates (45_word.md R272, R273). K is below 64, so a change of bit 15 tells the rest:
from 0 to 1 is the signed overflow of a sum and the borrow of a difference, from 1 to 0 is the carry of a sum and the signed
overflow of a difference. -/

namespace Sys2Proof.Machine

open Sys2Proof

/-! ## Words as numbers -/

theorem getLsbD_fifteen (w : Word) : w.getLsbD 15 = decide (32768 ≤ w.toNat) := BitVec.msb_eq_decide w

/-- Bit 15 is 0 in `x` and 1 in `y`: the form of every V and C of R272 and R273. -/
theorem not_and_fifteen_eq_decide (x y : Word) :
    (!x.getLsbD 15 && y.getLsbD 15) = decide (x.toNat < 32768 ∧ 32768 ≤ y.toNat) := by
  rw [getLsbD_fifteen, getLsbD_fifteen, ← decide_not, ← Bool.decide_and, decide_eq_decide, Nat.not_le]

theorem word_beq_zero (w : Word) : (w == 0) = decide (w.toNat = 0) := by
  rw [Bool.eq_iff_iff, beq_iff_eq, decide_eq_true_iff, ← BitVec.toNat_inj]
  rfl

theorem toNat_add_imm (a : Word) (k : BitVec 6) : (a + k.setWidth 16).toNat = (a.toNat + k.toNat) % 65536 := by
  rw [BitVec.toNat_add, BitVec.toNat_setWidth_of_le (by decide)]

theorem toNat_sub_imm (a : Word) (k : BitVec 6) : (a - k.setWidth 16).toNat = (a.toNat + 65536 - k.toNat) % 65536 := by
  have hk := k.isLt
  rw [BitVec.toNat_sub, BitVec.toNat_setWidth_of_le (by decide)]
  omega

/-! ## The flags of the sum and of the difference (R272, R273) -/

theorem addWordFlags_add_imm (sreg : Byte) (a : Word) (k : BitVec 6) : addWordFlags sreg a (a + k.setWidth 16) =
    putHVNZC sreg (flagH sreg) (decide (a.toNat < 32768 ∧ 32768 ≤ a.toNat + k.toNat))
      (decide (32768 ≤ (a.toNat + k.toNat) % 65536)) (decide ((a.toNat + k.toNat) % 65536 = 0))
      (decide (65536 ≤ a.toNat + k.toNat)) := by
  have ha := a.isLt
  have hk := k.isLt
  have hres := toNat_add_imm a k
  have hv : (!a.getLsbD 15 && (a + k.setWidth 16).getLsbD 15) =
      decide (a.toNat < 32768 ∧ 32768 ≤ a.toNat + k.toNat) := by
    rw [not_and_fifteen_eq_decide, decide_eq_decide]; omega
  have hc : (!(a + k.setWidth 16).getLsbD 15 && a.getLsbD 15) = decide (65536 ≤ a.toNat + k.toNat) := by
    rw [not_and_fifteen_eq_decide, decide_eq_decide]; omega
  rw [addWordFlags, hv, hc, getLsbD_fifteen, word_beq_zero, hres]

theorem subWordFlags_sub_imm (sreg : Byte) (a : Word) (k : BitVec 6) : subWordFlags sreg a (a - k.setWidth 16) =
    putHVNZC sreg (flagH sreg) (decide (32768 ≤ a.toNat ∧ a.toNat < 32768 + k.toNat))
      (decide (32768 ≤ (a.toNat + 65536 - k.toNat) % 65536)) (decide ((a.toNat + 65536 - k.toNat) % 65536 = 0))
      (decide (a.toNat < k.toNat)) := by
  have ha := a.isLt
  have hk := k.isLt
  have hres := toNat_sub_imm a k
  have hv : (a.getLsbD 15 && !(a - k.setWidth 16).getLsbD 15) =
      decide (32768 ≤ a.toNat ∧ a.toNat < 32768 + k.toNat) := by
    rw [Bool.and_comm, not_and_fifteen_eq_decide, decide_eq_decide]; omega
  have hc : ((a - k.setWidth 16).getLsbD 15 && !a.getLsbD 15) = decide (a.toNat < k.toNat) := by
    rw [Bool.and_comm, not_and_fifteen_eq_decide, decide_eq_decide]; omega
  rw [subWordFlags, hv, hc, getLsbD_fifteen, word_beq_zero, hres]

/-! ## The next state of each (R272, R273) -/

theorem next_retire_setPair {d : Reg} {res : Word} {sreg sreg' : Byte} {f : Form} {s : State} {n : Nat} (hres : res.toNat = n)
    (hsreg : sreg = sreg') : (.next (((s.setPair d res).setSreg sreg).retire 1 f 2) : Result) = .next { s with
      regs := (s.regs.set d (BitVec.ofNat 8 n)).set (d + 1 : Reg) (BitVec.ofNat 8 (n / 256)), sreg := sreg'
      pc := s.pc + 1, instructionCycles := s.params.cyclesOf f 2 } := by
  rw [State.setPair, lowByte_eq, highByte_eq, hres, hsreg]
  rfl

/-- Settles O18: each writes its pair and SREG, whose numbers `toNat_add_imm`, `toNat_sub_imm` and the flag lemmas give. -/
theorem wordImmediateResults : Obligations.WordImmediateResults := by
  unfold Obligations.WordImmediateResults
  intro d k s
  have hpair : (s.pair d).toNat = (s.reg (d + 1)).toNat * 256 + (s.reg d).toNat := pairOf_toNat ..
  rw [← hpair]
  exact ⟨next_retire_setPair (toNat_add_imm ..) (addWordFlags_add_imm ..),
    next_retire_setPair (toNat_sub_imm ..) (subWordFlags_sub_imm ..)⟩

end Sys2Proof.Machine
end

section
/-! PROOFS. The statements on loads, stores and exchanges in the data space (46_load_store.md R280 to R306, R313 to R316; 47_io.md
R331, R332). Each instruction is one shared operation and its end: what the operation answers at a quiet address is said once, and
what an overlap form leaves is read off the draws that come last. -/

namespace Sys2Proof.Machine

open Sys2Proof

/-! ## Updates of a pointer (R280, R281) -/

@[simp] theorem setFull_pc (s : State) (p : Ptr) (v : DataAddr) : (s.setFull p v).pc = s.pc := setRamp_pc _ p _

@[simp] theorem setFull_params (s : State) (p : Ptr) (v : DataAddr) : (s.setFull p v).params = s.params := setRamp_params _ p _

@[simp] theorem setFull_draws (s : State) (p : Ptr) (v : DataAddr) : (s.setFull p v).draws = s.draws := setRamp_draws _ p _

/-- The count of free values and a pointer are written independently. -/
theorem drawByte_setFull (s : State) (p : Ptr) (v : DataAddr) :
    (drawByte (s.setFull p v)).2 = (drawByte s).2.setFull p v := by
  cases p <;> rfl

@[simp] theorem full_record (s : State) (r : LogRecord) (p : Ptr) : (s.record r).full p = s.full p := by cases p <;> rfl

theorem overlaps_eq_false_iff (p : Ptr) (j : Reg) : p.overlaps j = false ↔ j ≠ p.lo ∧ j ≠ p.lo + 1 := by
  simp [Ptr.overlaps]

/-- An update of a pointer writes no register but its two. -/
theorem reg_setFull_of_not {p : Ptr} {j : Reg} (s : State) (v : DataAddr) (h : p.overlaps j = false) :
    (s.setFull p v).reg j = s.reg j := by
  obtain ⟨hlo, hhi⟩ := (overlaps_eq_false_iff p j).mp h
  rw [State.setFull, reg_setRamp, reg_setPair, if_neg hlo, if_neg hhi]

/-- An update of a pointer writes no extension register but its own. -/
theorem ramp_setFull_of_ne {p q : Ptr} (s : State) (v : DataAddr) (h : q ≠ p) : (s.setFull p v).ramp q = s.ramp q := by
  rw [State.setFull, ramp_setRamp, if_neg h, ramp_setPair]

@[simp] theorem ramp_setReg (s : State) (r : Reg) (v : Byte) (q : Ptr) : (s.setReg r v).ramp q = s.ramp q := by
  cases q <;> rfl

@[simp] theorem ramp_retire (s : State) (words : Int) (f : Form) (n : Nat) (q : Ptr) :
    (s.retire words f n).ramp q = s.ramp q := by
  cases q <;> rfl

/-! ## Quiet accesses and the end of an instruction -/

theorem State.afterRead.regs {s t : State} (h : s.afterRead t) : t.regs = s.regs := by
  unfold State.afterRead at h
  rw [h]

theorem State.afterRead.pc {s t : State} (h : s.afterRead t) : t.pc = s.pc := by
  unfold State.afterRead at h
  rw [h]

theorem State.afterRead.params {s t : State} (h : s.afterRead t) : t.params = s.params := by
  unfold State.afterRead at h
  rw [h]

theorem State.afterRead.ramp {s t : State} (h : s.afterRead t) (p : Ptr) : t.ramp p = s.ramp p := by
  unfold State.afterRead at h
  rw [h]
  cases p <;> rfl

theorem loadAt_quiet {a : DataAddr} {s : State} (d : Reg) (h : quietAt s.params a = true) :
    ∃ v t, memRead a s = .ok (v, t) ∧ s.afterRead t ∧ loadAt a d s = .ok (t.setReg d v) := by
  obtain ⟨v, t, hread, hframe⟩ := memRead_quiet h
  exact ⟨v, t, hread, hframe, by rw [loadAt, hread]; rfl⟩

/-- A quiet write has the frame that the claims state, and leaves pc. -/
theorem memWrite_afterWrite {a : DataAddr} {s : State} (v : Byte) (h : quietAt s.params a = true) :
    ∃ t, memWrite a v s = .ok t ∧ s.afterWrite t a ∧ t.pc = s.pc := by
  obtain ⟨t, hwrite, hregs, hpc, hflash, hparams, -, -, -, hsram, hbytes⟩ := memWrite_quiet v h
  refine ⟨t, hwrite, ⟨hregs, hflash, hparams, hbytes, hsram, fun ha => ?_⟩, hpc⟩
  obtain ⟨u, hu, hframe, -⟩ := memWrite_high (s := s) v ha
  cases hwrite.symm.trans hu
  exact hframe

/-- An operation that kept pc and the parameters, followed by the end of its instruction. -/
theorem finish_retire {s t : State} {words : Int} {f : Form} {n : Nat} (hpc : t.pc = s.pc) (hparams : t.params = s.params) :
    finish (.ok t) (·.retire words f n) =
      .next { t with pc := s.pc + words, instructionCycles := s.params.cyclesOf f n } := by
  rw [← hpc, ← hparams]
  rfl

/-! ## Loads that leave their pointer alone (R283, R285, R288, R291, R292, R295, R331) -/

theorem loads_of_loadAt {s : State} {i : Instr} {a : DataAddr} {d : Reg} {words : Int} {f : Form} {n : Nat}
    (hi : exec i s = finish (loadAt a d s) (·.retire words f n)) : s.loads i a d words f n := by
  intro hq
  obtain ⟨v, t, hread, hframe, hload⟩ := loadAt_quiet d hq
  refine ⟨v, t, hread, hframe, ?_⟩
  rw [hi, hload, hframe]
  rfl

/-- Settles O20: each is one `loadAt` at its own address. -/
theorem loadsComplete : Obligations.LoadsComplete := by
  unfold Obligations.LoadsComplete
  intro d q k a s
  rw [BitVec.ofNat_toNat]
  exact ⟨loads_of_loadAt rfl, loads_of_loadAt rfl, loads_of_loadAt rfl, loads_of_loadAt rfl, loads_of_loadAt rfl,
    loads_of_loadAt rfl, loads_of_loadAt rfl⟩

/-! ## Loads that step their pointer, without overlap (R281, R286, R287, R289, R290, R293, R294) -/

theorem spoilLoad_of_not {p : Ptr} {d : Reg} (s : State) (h : p.overlaps d = false) : spoilLoad p d s = s := by
  simp [spoilLoad, h]

theorem loadInc_of_not {p : Ptr} {d : Reg} (i : Instr) (s : State) (h : p.overlaps d = false) :
    loadInc p d i s = (loadAt (s.full p) d s).map (·.setFull p (s.full p + 1)) := by
  simp only [loadInc, logOverlap_of_not i s h, spoilLoad_of_not _ h]

theorem loadDec_of_not {p : Ptr} {d : Reg} (i : Instr) (s : State) (h : p.overlaps d = false) :
    loadDec p d i s = loadAt ((s.setFull p (s.full p - 1)).full p) d (s.setFull p (s.full p - 1)) := by
  have hid : spoilLoad p d = id := funext fun t => spoilLoad_of_not t h
  simp only [loadDec, logOverlap_of_not i s h, hid, Except.map_id, id_eq]

theorem loadsInc_of_loadInc {s : State} {i : Instr} {p : Ptr} {d : Reg} {f : Form}
    (hi : exec i s = finish (loadInc p d i s) (·.retire 1 f 1)) : s.loadsInc i p d f := by
  intro hno hq
  obtain ⟨v, t, hread, hframe, hload⟩ := loadAt_quiet d hq
  refine ⟨v, t, hread, hframe, ?_⟩
  rw [hi, loadInc_of_not i s hno, hload]
  exact finish_retire ((setFull_pc ..).trans hframe.pc) ((setFull_params ..).trans hframe.params)

theorem loadsDec_of_loadDec {s : State} {i : Instr} {p : Ptr} {d : Reg} {f : Form}
    (hi : exec i s = finish (loadDec p d i s) (·.retire 1 f 2)) : s.loadsDec i p d f := by
  intro hno hq
  obtain ⟨v, t, hread, hframe, hload⟩ := loadAt_quiet (s := s.setFull p (s.full p - 1)) d (by rw [setFull_params]; exact hq)
  refine ⟨v, t, hread, hframe, ?_⟩
  rw [hi, loadDec_of_not i s hno, hload]
  exact finish_retire (t := t.setReg d v) (hframe.pc.trans (setFull_pc ..)) (hframe.params.trans (setFull_params ..))

/-- Settles O21: each is a `loadInc` or a `loadDec` of its own pointer. -/
theorem updatingLoadsComplete : Obligations.UpdatingLoadsComplete := by
  unfold Obligations.UpdatingLoadsComplete
  intro d s
  exact ⟨loadsInc_of_loadInc rfl, loadsInc_of_loadInc rfl, loadsInc_of_loadInc rfl, loadsDec_of_loadDec rfl,
    loadsDec_of_loadDec rfl, loadsDec_of_loadDec rfl⟩

/-! ## The overlap forms of the loads (R282) -/

section
variable {p : Ptr} {d : Reg} (s : State)

/-- Each register after an overlapping load: free values in the two of the pointer. -/
theorem reg_spoilLoad (h : p.overlaps d = true) (j : Reg) : (spoilLoad p d s).reg j =
    if j = p.lo then Config.draw s.draws else if j = p.lo + 1 then Config.draw (s.draws + 1) else s.reg j := by
  rw [spoilLoad, if_pos h, drawRamp, reg_setRamp, reg_drawByte, drawPair, reg_setReg, reg_setReg]
  by_cases hlo : j = p.lo
  · simp [hlo, drawByte]
  · simp [hlo, Ne.symm hlo, eq_comm, drawByte, State.reg]

/-- Each extension register after an overlapping load: a free value, masked, in the pointer's own. -/
theorem ramp_spoilLoad (h : p.overlaps d = true) (q : Ptr) : (spoilLoad p d s).ramp q =
    if q = p then Config.draw (s.draws + 2) &&& p.mask s.params else s.ramp q := by
  rw [spoilLoad, if_pos h, drawRamp, ramp_setRamp]
  cases q <;> rfl

theorem spoilLoad_frame (h : p.overlaps d = true) : spoilLoad p d s = { s with
    regs := (spoilLoad p d s).regs, rampx := (spoilLoad p d s).rampx, rampy := (spoilLoad p d s).rampy
    rampz := (spoilLoad p d s).rampz, draws := s.draws + 3 } := by
  rw [spoilLoad, if_pos h]
  cases p <;> rfl

theorem drawPair_setPair (w : Word) : drawPair p (s.setPair p.lo w) = drawPair p s := by
  have hself : s.setReg p.lo (s.reg p.lo) = s := by simp [State.setReg, State.reg]
  have hdraw := drawPair_setPair_setReg s (s.reg p.lo) w (show p.overlaps p.lo = true by simp [Ptr.overlaps])
  rwa [hself] at hdraw

theorem drawRamp_drawPair_setRamp (v : Byte) : drawRamp p (drawPair p (s.setRamp p v)) = drawRamp p (drawPair p s) := by
  cases p <;> rfl

/-- The increment of an overlapping load is lost: the free values take its place. -/
theorem spoilLoad_setFull (v : DataAddr) (h : p.overlaps d = true) : spoilLoad p d (s.setFull p v) = spoilLoad p d s := by
  rw [spoilLoad, spoilLoad, if_pos h, if_pos h, State.setFull, drawRamp_drawPair_setRamp, drawPair_setPair]

end

theorem loadInc_of_overlaps {p : Ptr} {d : Reg} (i : Instr) (s : State) (h : p.overlaps d = true) :
    let u := s.record (.undefinedPointerOverlap s.pc (firstWord i))
    loadInc p d i s = (loadAt (u.full p) d u).map (spoilLoad p d) := by
  simp only [loadInc, logOverlap_of_overlaps i s h, spoilLoad_setFull _ _ h]

theorem loadDec_of_overlaps {p : Ptr} {d : Reg} (i : Instr) (s : State) (h : p.overlaps d = true) :
    let u := (s.record (.undefinedPointerOverlap s.pc (firstWord i))).setFull p (s.full p - 1)
    loadDec p d i s = (loadAt (u.full p) d u).map (spoilLoad p d) := by
  simp only [loadDec, logOverlap_of_overlaps i s h, full_record]

/-- An overlapping load reads in a state that differs from the first one in the log and the pointer at most, and then draws. -/
theorem loadsOverlap_of_spoilLoad {s u : State} {i : Instr} {p : Ptr} {d : Reg} {f : Form} {n : Nat}
    (hover : p.overlaps d = true) (hpc : u.pc = s.pc) (hparams : u.params = s.params)
    (hreg : ∀ j, p.overlaps j = false → u.reg j = s.reg j) (hramp : ∀ q, q ≠ p → u.ramp q = s.ramp q)
    (hi : exec i s = finish ((loadAt (u.full p) d u).map (spoilLoad p d)) (·.retire 1 f n)) :
    s.loadsOverlap i p u f n := by
  intro hq
  obtain ⟨v, t, hread, hframe, hload⟩ := loadAt_quiet d (hparams ▸ hq)
  have hne : p.lo + 1 ≠ p.lo := by simp
  have htreg (j : Reg) : t.reg j = u.reg j := congrArg (·[j]) hframe.regs
  refine ⟨v, t, (spoilLoad p d (t.setReg d v)).retire 1 f n, hread, hframe, by rw [hi, hload]; rfl, ?_, ?_, ?_, ?_, ?_, ?_⟩
  · rw [reg_retire, reg_spoilLoad _ hover, if_pos rfl]
    rfl
  · rw [reg_retire, reg_spoilLoad _ hover, if_neg hne, if_pos rfl]
    rfl
  · rw [ramp_retire, ramp_spoilLoad _ hover, if_pos rfl, ramp_setRamp, if_pos rfl]
    rfl
  · intro j hj
    obtain ⟨hlo, hhi⟩ := (overlaps_eq_false_iff p j).mp hj
    have hd : d ≠ j := fun hd => by simp [hd, hj] at hover
    rw [reg_retire, reg_spoilLoad _ hover, if_neg hlo, if_neg hhi, reg_setReg, if_neg hd, htreg, hreg j hj]
  · intro q hq
    rw [ramp_retire, ramp_spoilLoad _ hover, if_neg hq, ramp_setReg, hframe.ramp, hramp q hq]
  · rw [← hpc, ← hparams, ← hframe.pc, ← hframe.params, spoilLoad_frame (t.setReg d v) hover]
    rfl

theorem loadsOverlap_of_loadInc {s : State} {i : Instr} {p : Ptr} {d : Reg} {f : Form} {n : Nat} (hover : p.overlaps d = true)
    (hi : exec i s = finish (loadInc p d i s) (·.retire 1 f n)) :
    s.loadsOverlap i p (s.record (.undefinedPointerOverlap s.pc (firstWord i))) f n :=
  loadsOverlap_of_spoilLoad hover rfl rfl (fun _ _ => rfl) (fun q _ => by cases q <;> rfl)
    (hi.trans (by rw [loadInc_of_overlaps i s hover]))

theorem loadsOverlap_of_loadDec {s : State} {i : Instr} {p : Ptr} {d : Reg} {f : Form} {n : Nat} (hover : p.overlaps d = true)
    (hi : exec i s = finish (loadDec p d i s) (·.retire 1 f n)) :
    s.loadsOverlap i p ((s.record (.undefinedPointerOverlap s.pc (firstWord i))).setFull p (s.full p - 1)) f n :=
  loadsOverlap_of_spoilLoad hover (setFull_pc ..) (setFull_params ..) (fun _ hj => reg_setFull_of_not _ _ hj)
    (fun q hq => (ramp_setFull_of_ne _ _ hq).trans (by cases q <;> rfl))
    (hi.trans (by rw [loadDec_of_overlaps i s hover]))

/-- Settles O22: behind its record, each reads once and then draws the bytes of its pointer. -/
theorem overlapLoadsComplete : Obligations.OverlapLoadsComplete := by
  unfold Obligations.OverlapLoadsComplete
  intro p d s hover
  cases p <;> exact ⟨loadsOverlap_of_loadInc hover rfl, loadsOverlap_of_loadDec hover rfl⟩

/-! ## Stores that leave their pointer alone (R284, R296, R299, R302, R303, R306, R332) -/

theorem stores_of_memWrite {s : State} {i : Instr} {a : DataAddr} {v : Byte} {words : Int} {f : Form} {n : Nat}
    (hi : exec i s = finish (memWrite a v s) (·.retire words f n)) : s.stores i a v words f n := by
  intro hq
  obtain ⟨t, hwrite, hafter, hpc⟩ := memWrite_afterWrite v hq
  obtain ⟨-, -, hparams, -⟩ := id hafter
  refine ⟨t, hwrite, hafter, ?_⟩
  rw [hi, hwrite]
  exact finish_retire hpc hparams

/-- Settles O23: each is one `memWrite` of Rr at its own address. -/
theorem storesComplete : Obligations.StoresComplete := by
  unfold Obligations.StoresComplete
  intro r q k a s
  rw [BitVec.ofNat_toNat]
  exact ⟨stores_of_memWrite rfl, stores_of_memWrite rfl, stores_of_memWrite rfl, stores_of_memWrite rfl,
    stores_of_memWrite rfl, stores_of_memWrite rfl, stores_of_memWrite rfl⟩

/-! ## Stores that step their pointer (R281, R282, R297, R298, R300, R301, R304, R305) -/

theorem storesInc_of_storeInc {s u : State} {i : Instr} {p : Ptr} {r : Reg} {v : Byte} {f : Form} (hpc : u.pc = s.pc)
    (hparams : u.params = s.params) (hi : exec i s = finish (storeInc p r i s) (·.retire 1 f 1))
    (hstore : storeInc p r i s = (memWrite (s.full p) v u).map (·.setFull p (s.full p + 1))) : s.storesInc i p u v f := by
  intro hq
  obtain ⟨t, hwrite, hafter, htpc⟩ := memWrite_afterWrite v (hparams ▸ hq)
  obtain ⟨-, -, htparams, -⟩ := id hafter
  refine ⟨t, hwrite, hafter, ?_⟩
  rw [hi, hstore, hwrite]
  exact finish_retire ((setFull_pc ..).trans (htpc.trans hpc)) ((setFull_params ..).trans (htparams.trans hparams))

theorem storesDec_of_storeDec {s u : State} {i : Instr} {p : Ptr} {r : Reg} {v : Byte} {f : Form} (hpc : u.pc = s.pc)
    (hparams : u.params = s.params) (hi : exec i s = finish (storeDec p r i s) (·.retire 1 f 2))
    (hstore : storeDec p r i s = memWrite (u.full p) v u) : s.storesDec i p u v f := by
  intro hq
  obtain ⟨t, hwrite, hafter, htpc⟩ := memWrite_afterWrite v (hparams ▸ hq)
  obtain ⟨-, -, htparams, -⟩ := id hafter
  refine ⟨t, hwrite, hafter, ?_⟩
  rw [hi, hstore, hwrite]
  exact finish_retire (htpc.trans hpc) (htparams.trans hparams)

theorem storeInc_of_not {p : Ptr} {r : Reg} (i : Instr) (s : State) (h : p.overlaps r = false) :
    storeInc p r i s = (memWrite (s.full p) (s.reg r) s).map (·.setFull p (s.full p + 1)) := by
  simp [storeInc, logOverlap_of_not i s h, storeByte, h]

/-- Without overlap the decrement leaves the byte to be stored. -/
theorem storeDec_of_not {p : Ptr} {r : Reg} (i : Instr) (s : State) (h : p.overlaps r = false) :
    let u := s.setFull p (s.full p - 1)
    storeDec p r i s = memWrite (u.full p) (s.reg r) u := by
  simp [storeDec, logOverlap_of_not i s h, storeByte, h, reg_setFull_of_not _ _ h]

theorem storeInc_of_overlaps {p : Ptr} {r : Reg} (i : Instr) (s : State) (h : p.overlaps r = true) :
    let u := (drawByte (s.record (.undefinedPointerOverlap s.pc (firstWord i)))).2
    storeInc p r i s = (memWrite (s.full p) (Config.draw s.draws) u).map (·.setFull p (s.full p + 1)) := by
  simp only [storeInc, logOverlap_of_overlaps i s h, storeByte, if_pos h, full_record]
  rfl

theorem storeDec_of_overlaps {p : Ptr} {r : Reg} (i : Instr) (s : State) (h : p.overlaps r = true) :
    let u := (drawByte (s.record (.undefinedPointerOverlap s.pc (firstWord i)))).2.setFull p (s.full p - 1)
    storeDec p r i s = memWrite (u.full p) (Config.draw s.draws) u := by
  simp only [storeDec, logOverlap_of_overlaps i s h, storeByte, if_pos h, full_record, drawByte_setFull]
  simp only [drawByte, setFull_draws, record_draws]

/-- Settles O24: without overlap each writes Rr once, in the first state or in the one with the pointer decremented. -/
theorem updatingStoresComplete : Obligations.UpdatingStoresComplete := by
  unfold Obligations.UpdatingStoresComplete
  intro p r s hno
  cases p <;> exact ⟨storesInc_of_storeInc rfl rfl rfl (storeInc_of_not _ s hno),
    storesDec_of_storeDec rfl rfl rfl (storeDec_of_not _ s hno)⟩

/-- Settles O25: behind its record, each writes a drawn byte once. -/
theorem overlapStoresComplete : Obligations.OverlapStoresComplete := by
  unfold Obligations.OverlapStoresComplete
  intro p r s hover
  cases p <;> exact ⟨storesInc_of_storeInc rfl rfl rfl (storeInc_of_overlaps _ s hover),
    storesDec_of_storeDec rfl rfl rfl (storeDec_of_overlaps _ s hover)⟩

/-! ## Exchanges at `Full(Z)` (R313 to R316) -/

theorem allOnes_sub (r : Byte) : 0xFF - r = ~~~r :=
  BitVec.eq_of_toNat_eq ((toNat_allOnes_sub r).trans (BitVec.toNat_not (x := r)).symm)

/-- A read and a write that both answer make an exchange. -/
theorem exchange_ok {g : Byte → Byte → Byte} {d : Reg} {s t u : State} {v : Byte}
    (hread : memRead (s.full .z) s = .ok (v, t)) (hwrite : memWrite (s.full .z) (g (t.reg d) v) t = .ok u) :
    exchange g d s = .ok (u.setReg d v) := by
  show (memRead (s.full .z) s).bind _ = _
  rw [hread]
  show (memWrite (s.full .z) (g (t.reg d) v) t).bind _ = _
  rw [hwrite]
  rfl

theorem exchanges_of_exchange {s : State} {i : Instr} {g : Byte → Byte → Byte} {d : Reg} {f : Form}
    (hi : exec i s = finish (exchange g d s) (·.retire 1 f 2)) : s.exchanges i d (g (s.reg d)) f := by
  refine ⟨fun hq => ?_, fun he hin => ?_⟩
  · obtain ⟨v, t, hread, hframe⟩ := memRead_quiet hq
    have hframe : s.afterRead t := hframe
    have hreg : s.reg d = t.reg d := congrArg (·[d]) hframe.regs.symm
    obtain ⟨u, hwrite, hafter, hpc⟩ := memWrite_afterWrite (s := t) (g (s.reg d) v) (by rw [hframe.params]; exact hq)
    obtain ⟨hregs, -, hparams, -⟩ := id hafter
    refine ⟨v, t, u, hread, hframe, hwrite, hafter, ?_⟩
    rw [hreg] at hwrite
    rw [hi, exchange_ok hread hwrite, ← hframe.regs, ← hregs]
    exact finish_retire (t := u.setReg d v) (hpc.trans hframe.pc) (hparams.trans hframe.params)
  · have hregion := regionOf_sram he hin
    rw [hi, exchange_ok (memRead_sram hregion) (memWrite_sram hregion)]
    rfl

/-- Settles O27: each is one `exchange`, LAC's mask being the complement of Rd. -/
theorem atomicExchanges : Obligations.AtomicExchanges := by
  unfold Obligations.AtomicExchanges
  intro d s
  have hlac : (fun m : Byte => m &&& ~~~s.reg d) = fun m => (0xFF - s.reg d) &&& m :=
    funext fun m => by rw [allOnes_sub, BitVec.and_comm]
  rw [hlac]
  exact ⟨exchanges_of_exchange (g := fun r _ => r) rfl, exchanges_of_exchange (g := fun r m => r ||| m) rfl,
    exchanges_of_exchange (g := fun r m => (0xFF - r) &&& m) rfl, exchanges_of_exchange (g := fun r m => r ^^^ m) rfl⟩

end Sys2Proof.Machine
end

section
/-! PROOFS. The statement on the I/O bit instructions (47_io.md R333, R334): both are one `ioModify` by `putFlag`, and what that
answers is said once from the read and the write it is made of. -/

namespace Sys2Proof.Machine

open Sys2Proof

/-- Setting and clearing one bit differ in the bit that `putFlag` writes and in the form charged. -/
theorem exec_ioBit (a : BitVec 5) (b : Bit) (set : Bool) (s : State) :
    exec (if set then .sbi a b else .cbi a b) s =
      finish (ioModify (putFlag · b set) a s) (·.retire 1 (if set then .sbi else .cbi) 1) := by
  cases set with
  | true => rfl
  | false => rfl

/-- A read and a write that both answer make a modification. -/
theorem ioModify_ok {f : Byte → Byte} {a : BitVec 5} {s t u : State} {v : Byte}
    (hread : memRead (ioAddr a) s = .ok (v, t)) (hwrite : memWrite (ioAddr a) (f v) t = .ok u) :
    ioModify f a s = .ok u := by
  show (memRead (ioAddr a) s).bind _ = _
  rw [hread]
  exact hwrite

theorem toNat_ioAddr (a : BitVec 5) : (ioAddr a).toNat = a.toNat := BitVec.toNat_setWidth_of_le (by decide)

/-- The address of SBI and CBI lies in I/O (R81). -/
theorem toNat_ioAddr_lt (a : BitVec 5) : (ioAddr a).toNat < 0x1000 := by
  rw [toNat_ioAddr]
  exact a.isLt.trans (by decide)

/-- On the reference GPIOR the read is free and the write is of its one byte (R410). -/
theorem ioModify_gpior {f : Byte → Byte} {a : BitVec 5} {s : State} {n : Nat} {g : BlockDecl}
    (ho : ioOwner s.params a.toNat = some (n, g)) (hk : g.kind = .gpior) :
    ioModify f a s = .ok (s.setGpior (a.toNat - g.ioBase) (f (s.gpiorAt (a.toNat - g.ioBase)))) := by
  refine ioModify_ok (v := s.gpiorAt (a.toNat - g.ioBase)) (t := s) ?_ ?_
  · rw [memRead_io (toNat_ioAddr_lt a), toNat_ioAddr, ioRead_owned ho, blockGetIo, hk]
  · rw [memWrite_io (toNat_ioAddr_lt a), toNat_ioAddr, ioWrite_owned _ ho, blockSetIo, hk]

/-- A byte of the reference GPIOR read back after it was written (R410). -/
theorem gpiorAt_setGpior_same (s : State) (i : Nat) (v : Byte) : (s.setGpior i v).gpiorAt i = v := by
  rw [State.gpiorAt, gpior_setGpior]
  exact if_pos rfl

/-- Settles O29: `putFlag` changes exactly bit b between the one read and the one write. -/
theorem ioBitInstructions : Obligations.IoBitInstructions := by
  unfold Obligations.IoBitInstructions
  intro a b set s
  rw [BitVec.ofNat_toNat]
  intro i f at_
  have hexec : exec i s = finish (ioModify (putFlag · b set) a s) (·.retire 1 f 1) := exec_ioBit a b set s
  refine ⟨fun hq => ?_, fun n g ho hk => ?_⟩
  · obtain ⟨v, t, hread, hframe⟩ := memRead_quiet hq
    have hframe : s.afterRead t := hframe
    obtain ⟨u, hwrite, hafter, hpc⟩ := memWrite_afterWrite (s := t) (putFlag v b set) (by rw [hframe.params]; exact hq)
    obtain ⟨-, -, hparams, -⟩ := id hafter
    refine ⟨v, putFlag v b set, t, u, hread, hframe, getLsbD_putFlag v b set, hwrite, hafter, ?_⟩
    rw [hexec, ioModify_ok (f := (putFlag · b set)) hread hwrite]
    exact finish_retire (hpc.trans hframe.pc) (hparams.trans hframe.params)
  · rw [hexec, ioModify_gpior ho hk]
    refine ⟨_, rfl, fun j => ?_, fun j hj => ?_, rfl⟩
    · exact (congrArg (·.getLsbD j) (gpiorAt_setGpior_same s _ _)).trans (getLsbD_putFlag _ b set j)
    · exact (gpior_setGpior s _ _ j).trans (if_neg hj)

end Sys2Proof.Machine
end

section
/-! PROOFS. The statements on jumps, branches, skips and the instructions without an effect of their own (48_control_flow.md,
49_stack_skip_misc.md). -/

namespace Sys2Proof.Machine

open Sys2Proof

/-! ## Jumps and branches (R341 to R344, R348, R351, R352) -/

/-- A relative target, its displacement read as a signed number (R342, R351). -/
theorem relative_eq (s : State) {n : Nat} (k : BitVec (n + 1)) :
    s.relative k = s.pc + 1 + if k.toNat < 2 ^ n then (k.toNat : Int) else k.toNat - 2 ^ (n + 1) := by
  rw [State.relative, BitVec.toInt_eq_toNat_cond, Nat.pow_succ]
  congr 1
  by_cases h : k.toNat < 2 ^ n
  · rw [if_pos h, if_pos (by omega)]
  · rw [if_neg h, if_neg (by omega)]
    push_cast
    rfl

theorem ptr_z_toNat (s : State) : (s.ptr .z).toNat = (s.reg 31).toNat * 256 + (s.reg 30).toNat := pairOf_toNat _ _

theorem extendedZ_eq (s : State) :
    s.extendedZ = s.eind.toNat * 65536 + (s.reg 31).toNat * 256 + (s.reg 30).toNat := by
  rw [State.extendedZ, toNat_append_add, ptr_z_toNat, Nat.add_assoc]
  rfl

/-- Settles O33: each is one jump, or one step on where its branch is not taken. -/
theorem jumpResults : Obligations.JumpResults := by
  unfold Obligations.JumpResults
  intro k22 k12 k7 f s to_ branch
  have h12 : s.relative k12 = s.pc + 1 + if k12.toNat < 2048 then (k12.toNat : Int) else k12.toNat - 4096 :=
    relative_eq s k12
  have h7 : s.relative k7 = branch := relative_eq s k7
  have hz : ((s.ptr .z).toNat : Int) = (s.reg 31).toNat * 256 + (s.reg 30).toNat := congrArg Nat.cast (ptr_z_toNat s)
  rw [← h12, ← h7, ← hz]
  refine ⟨rfl, rfl, rfl, rfl, ?_⟩
  show branchIf (!s.sreg.getLsbD f) k7 .brbc s = _
  cases s.sreg.getLsbD f <;> rfl

/-- Settles O34: the target is EIND:Z where `big_pc` holds, and elsewhere both fall back. -/
theorem extendedJumpResults : Obligations.ExtendedJumpResults := by
  unfold Obligations.ExtendedJumpResults
  intro s target fallback
  have htarget : (s.extendedZ : Int) = target := congrArg Nat.cast (extendedZ_eq s)
  rw [← htarget]
  refine ⟨fun hbig => ?_, fun hsmall => ?_⟩
  · have hbig : s.params.bigPc = true := (bigPc_iff _).mpr hbig
    exact ⟨if_pos hbig, calls_of_callTo (if_pos hbig)⟩
  · have hsmall : ¬ s.params.bigPc = true := (bigPc_iff _).not.mpr (Nat.not_lt.mpr hsmall)
    exact ⟨if_neg hsmall, if_neg hsmall⟩

/-! ## Skips (R380 to R385) -/

theorem isLong_iff (w : Word) : isLong w = true ↔ w &&& 0xFE0C = 0x940C ∨ w &&& 0xFC0F = 0x9000 := by simp [isLong]

/-- The skip mechanism (R380): the next word's length decides, and a look at it beyond flash stops. -/
theorem skips_skipIf (t : State) (c : Bool) (f : Form) : t.skips (skipIf c f t) c f := by
  refine ⟨?_, ?_, ?_⟩
  · rintro rfl; rfl
  · rintro rfl h0 h1
    simp only [← isLong_iff]
    rw [skipIf, if_pos rfl, fetchWord_ok h0 h1]
    dsimp only
    split <;> rfl
  · rintro rfl hout
    rw [skipIf, if_pos rfl, fetchWord_fault hout]
    rfl

/-- Settles O40: each is the skip mechanism on its own condition, after the I/O read where there is one. -/
theorem skipResults : Obligations.SkipResults := by
  unfold Obligations.SkipResults
  intro d r b a s
  have heq : (s.reg d == s.reg r) = decide ((s.reg d).toNat = (s.reg r).toNat) := by
    simp only [BitVec.toNat_inj, Bool.beq_eq_decide_eq]
  refine ⟨heq ▸ skips_skipIf s _ _, skips_skipIf s _ _, skips_skipIf s _ _, fun hq => ?_⟩
  obtain ⟨v, t, hread, hframe⟩ := memRead_quiet hq
  have hskip : ∀ (c : Byte → Bool) (f : Form), t.skips (skipOnIo a c f s) (c v) f := by
    intro c f
    have hread : memRead (ioAddr a) s = .ok (v, t) := by rw [← hread, BitVec.ofNat_toNat]; rfl
    rw [skipOnIo, hread]
    exact skips_skipIf t (c v) f
  exact ⟨v, t, hread, hframe, hskip (fun v => !v.getLsbD b) .sbic, hskip (fun v => v.getLsbD b) .sbis⟩

/-! ## The rest (R390 to R399) -/

/-- Settles O41: each ends one word on, and only BREAK does more. -/
theorem plainInstructions : Obligations.PlainInstructions := by
  unfold Obligations.PlainInstructions
  exact fun k s => ⟨rfl, rfl, rfl, rfl, rfl, rfl, rfl⟩

/-- No group of R143 meets the two-word forms (R120). -/
theorem long_apart_unknownGroups : ∀ g ∈ unknownGroups,
    (0x940C &&& g.mask ≠ g.pat &&& 0xFE0C) ∧ 0x9000 &&& g.mask ≠ g.pat &&& 0xFC0F := by decide

/-- A word of no row is no first word of a two-word form (R120, R142). -/
theorem isLong_eq_false_of_no_row {op : Word} (h : ∀ r ∈ rows, op &&& r.mask ≠ r.pat) : isLong op = false := by
  obtain ⟨g, hg, hfit, -⟩ := (no_row_iff op).mp h
  obtain ⟨hjmp, hlds⟩ := long_apart_unknownGroups g hg
  rw [← Bool.not_eq_true, isLong_iff]
  rintro (hl | hl)
  · exact hjmp (pat_and_mask_comm hl hfit)
  · exact hlds (pat_and_mask_comm hl hfit)

/-- A word of no row is executed as the unknown opcode; it is a one-word form (R399). -/
theorem executeNext_unknown {s : State} {w : Word} {e : DecodeError} (h0 : 0 ≤ s.pc) (h1 : s.pc < s.params.flashWords)
    (hd : decode (s.flashWord s.pc.toNat) w = .error e) : executeNext s = execUnknown (s.flashWord s.pc.toNat) s := by
  have hno := decode_eq_error_iff.mp ⟨e, hd⟩
  have h2 : fetchSecond (s.flashWord s.pc.toNat) s = .ok 0 := if_neg (by simp [isLong_eq_false_of_no_row hno])
  obtain ⟨e', hd'⟩ := (decode_eq_error_iff (w := 0)).mpr hno
  simp only [executeNext, fetchWord_ok h0 h1, h2, hd']

/-- Settles O7: such a word is no first word of a two-word form, so nothing else is fetched. -/
theorem unknownOpcodeRuns : Obligations.UnknownOpcodeRuns := by
  unfold Obligations.UnknownOpcodeRuns
  rintro s op w e h0 h1 rfl hd
  exact ⟨executeNext_unknown h0 h1 hd, rfl⟩

end Sys2Proof.Machine
end

section
/-! PROOFS. The statements on the interrupt controller (60_exceptions.md R420 to R436): the pending sets and their invariant,
arbitration, the taking of an interrupt in a CPU step, and RETI's level clear. -/

namespace Sys2Proof.Machine

open Sys2Proof

/-! ## Pending sets (R420, R425) -/

theorem rising_iff_pairwise (l : List Nat) : rising l = true ↔ l.Pairwise (· < ·) := by
  induction l with
  | nil => simp [rising]
  | cons a l ih => simp [rising, ih]

theorem ivSetWf_iff (l : List Nat) : ivSetWf l = true ↔ l.Pairwise (· < ·) ∧ ∀ a ∈ l, a < ivMaxCount := by
  simp [ivSetWf, rising_iff_pairwise]

theorem ivDisjoint_iff (l m : List Nat) : ivDisjoint l m = true ↔ l.Disjoint m := by simp [ivDisjoint, List.Disjoint]

theorem ivSetWf_of_sublist {l m : List Nat} (h : l.Sublist m) (hm : ivSetWf m = true) : ivSetWf l = true := by
  obtain ⟨hrise, hlt⟩ := (ivSetWf_iff m).mp hm
  exact (ivSetWf_iff l).mpr ⟨hrise.sublist h, fun a ha => hlt a (h.subset ha)⟩

theorem mem_ivInsert (l : List Nat) (x y : Nat) : y ∈ ivInsert l x ↔ y = x ∨ y ∈ l := by
  induction l with
  | nil => simp [ivInsert]
  | cons a l ih =>
    unfold ivInsert
    split
    · next h => simp [h]
    · split
      · simp
      · simp [ih, or_left_comm]

theorem mem_ivRemove (l : List Nat) (x y : Nat) : y ∈ ivRemove l x ↔ y ∈ l ∧ y ≠ x := by simp [ivRemove]

theorem pairwise_ivInsert {l : List Nat} (x : Nat) (h : l.Pairwise (· < ·)) : (ivInsert l x).Pairwise (· < ·) := by
  induction l with
  | nil => simp [ivInsert]
  | cons a l ih =>
    obtain ⟨ha, hl⟩ := List.pairwise_cons.mp h
    unfold ivInsert
    split
    · exact h
    · split
      · next hx => exact List.pairwise_cons.mpr ⟨List.forall_mem_cons.mpr ⟨hx, fun b hb => Nat.lt_trans hx (ha b hb)⟩, h⟩
      · refine List.pairwise_cons.mpr ⟨fun b hb => ?_, ih hl⟩
        rcases (mem_ivInsert l x b).mp hb with rfl | hb
        · omega
        · exact ha b hb

theorem ivSetWf_ivInsert {l : List Nat} {x : Nat} (hx : x < ivMaxCount) (h : ivSetWf l = true) :
    ivSetWf (ivInsert l x) = true := by
  obtain ⟨hrise, hlt⟩ := (ivSetWf_iff l).mp h
  refine (ivSetWf_iff _).mpr ⟨pairwise_ivInsert x hrise, fun a ha => ?_⟩
  rcases (mem_ivInsert l x a).mp ha with rfl | ha
  · exact hx
  · exact hlt a ha

/-- The invariant of R420, level by level: each pending set is one, and those of two levels share no vector. -/
theorem Pmic.wf_iff (p : Pmic) : p.wf = true ↔
    (∀ k, ivSetWf (p.pending k) = true) ∧ ∀ k j, k ≠ j → (p.pending k).Disjoint (p.pending j) := by
  constructor
  · intro h
    simp only [Pmic.wf, Bool.and_eq_true, ivDisjoint_iff] at h
    obtain ⟨⟨⟨⟨⟨⟨⟨⟨⟨hlo, hmed⟩, hhi⟩, hnmi⟩, lm⟩, lh⟩, ln⟩, mh⟩, mn⟩, hn⟩ := h
    have apart : [Level.none, .lo, .med, .hi, .nmi].Pairwise fun k j => (p.pending k).Disjoint (p.pending j) := by
      simp [Pmic.pending, lm, lh, ln, mh, mn, hn]
    have all : ∀ k : Level, k ∈ [Level.none, .lo, .med, .hi, .nmi] := by rintro ⟨⟩ <;> decide
    have symm : Std.Symm fun k j : Level => (p.pending k).Disjoint (p.pending j) := ⟨fun _ _ h => h.symm⟩
    refine ⟨fun k => ?_, fun k j => apart.forall (all k) (all j)⟩
    cases k
    exacts [rfl, hlo, hmed, hhi, hnmi]
  · rintro ⟨hset, hdis⟩
    simp only [Pmic.wf, Bool.and_eq_true, ivDisjoint_iff]
    exact ⟨⟨⟨⟨⟨⟨⟨⟨⟨hset .lo, hset .med⟩, hset .hi⟩, hset .nmi⟩, hdis .lo .med (by decide)⟩, hdis .lo .hi (by decide)⟩,
      hdis .lo .nmi (by decide)⟩, hdis .med .hi (by decide)⟩, hdis .med .nmi (by decide)⟩, hdis .hi .nmi (by decide)⟩

/-- Taking vectors out of the sets keeps the invariant. -/
theorem Pmic.wf_of_sublist {p q : Pmic} (h : ∀ k, (q.pending k).Sublist (p.pending k)) (hp : p.wf = true) : q.wf = true := by
  obtain ⟨hset, hdis⟩ := p.wf_iff.mp hp
  exact q.wf_iff.mpr ⟨fun k => ivSetWf_of_sublist (h k) (hset k),
    fun k j hne x hk hj => hdis k j hne ((h k).subset hk) ((h j).subset hj)⟩

/-! ## `set_iv_level` (R425) -/

theorem pending_withdraw (p : Pmic) (iv : Nat) (k : Level) : (p.withdraw iv).pending k = ivRemove (p.pending k) iv := by
  cases k <;> rfl

theorem pending_post (p : Pmic) (iv : Nat) (l k : Level) :
    (p.post iv l).pending k = if k = l ∧ k ≠ .none then ivInsert (p.pending k) iv else p.pending k := by
  cases l <;> cases k <;> rfl

/-- Where each vector is after one was taken out of all sets and added to the set of a level. -/
theorem mem_pending_withdraw_post (p : Pmic) (iv : Nat) (l k : Level) (x : Nat) :
    x ∈ ((p.withdraw iv).post iv l).pending k ↔ if x = iv then k = l ∧ k ≠ .none else x ∈ p.pending k := by
  rw [pending_post, pending_withdraw]
  by_cases hk : k = l ∧ k ≠ .none
  · rw [if_pos hk, mem_ivInsert, mem_ivRemove]
    by_cases hx : x = iv
    · rw [if_pos hx]; exact iff_of_true (.inl hx) hk
    · simp [hx]
  · rw [if_neg hk, mem_ivRemove]
    by_cases hx : x = iv
    · rw [if_pos hx]; exact iff_of_false (fun h => h.2 hx) hk
    · simp [hx]

theorem wf_withdraw_post {p : Pmic} {iv : Nat} (l : Level) (hiv : iv < ivMaxCount) (hp : p.wf = true) :
    ((p.withdraw iv).post iv l).wf = true := by
  obtain ⟨hset, hdis⟩ := p.wf_iff.mp hp
  refine (Pmic.wf_iff _).mpr ⟨fun k => ?_, fun k j hne x hk hj => ?_⟩
  · rw [pending_post, pending_withdraw]
    have hremove : ivSetWf (ivRemove (p.pending k) iv) = true := ivSetWf_of_sublist List.filter_sublist (hset k)
    split
    · exact ivSetWf_ivInsert hiv hremove
    · exact hremove
  · rw [mem_pending_withdraw_post] at hk hj
    by_cases hx : x = iv
    · rw [if_pos hx] at hk hj
      exact hne (hk.1.trans hj.1.symm)
    · rw [if_neg hx] at hk hj
      exact hdis k j hne hk hj

theorem levelOf_num (l : Level) : levelOf l.num = some l := by cases l <;> rfl

theorem exists_level_num {level : Int} (h0 : 0 ≤ level) (h4 : level ≤ 4) : ∃ l : Level, level = l.num := by
  interval_cases level
  exacts [⟨.none, rfl⟩, ⟨.lo, rfl⟩, ⟨.med, rfl⟩, ⟨.hi, rfl⟩, ⟨.nmi, rfl⟩]

theorem Level.num_inj {k l : Level} : k.num = l.num ↔ k = l := by
  refine ⟨fun h => Option.some_inj.mp ?_, congrArg _⟩
  rw [← levelOf_num, ← levelOf_num, h]

theorem levelOf_eq_none {level : Int} (h : level < 0 ∨ 4 < level) : levelOf level = none := by
  unfold levelOf
  split
  case h_6 => rfl
  all_goals omega

theorem setIvLevel_ok {iv : Int} (l : Level) (s : State) (h0 : 0 ≤ iv) (h1 : iv < ivMaxCount) :
    setIvLevel iv l.num s = s.setPmic ((s.pmic.withdraw iv.toNat).post iv.toNat l) := by
  simp only [setIvLevel, levelOf_num]
  exact if_pos ⟨h0, h1⟩

theorem setIvLevel_invalid {iv level : Int} (s : State) (h : level < 0 ∨ 4 < level ∨ iv < 0 ∨ ivMaxCount ≤ iv) :
    setIvLevel iv level s = s.record (.invalidIntLevel iv level) := by
  unfold setIvLevel
  split
  · next l hl =>
    refine if_neg fun ⟨h0, h1⟩ => ?_
    rw [levelOf_eq_none (by omega)] at hl
    cases hl
  · rfl

/-- Settles O43: the vector is taken out of all sets before it is added to one. -/
theorem setIvLevelPlaces : Obligations.SetIvLevelPlaces := by
  unfold Obligations.SetIvLevelPlaces
  intro iv level s
  refine ⟨fun h0 h4 hiv0 hiv1 => ?_, fun h => ⟨setIvLevel_invalid s h, rfl⟩⟩
  obtain ⟨l, rfl⟩ := exists_level_num h0 h4
  obtain ⟨n, rfl⟩ := Int.eq_ofNat_of_zero_le hiv0
  refine ⟨_, setIvLevel_ok l s hiv0 hiv1, ?_, fun k x hk => ?_, fun k x => ?_⟩
  · cases l <;> rfl
  · rw [mem_pending_withdraw_post]
    simp [hk, Level.num_inj, eq_comm]
  · rw [setIvLevel_ok l s hiv0 hiv1, show (0 : Int) = (Level.none.num : Int) from rfl, setIvLevel_ok .none _ hiv0 hiv1]
    simp only [setPmic_pmic, mem_pending_withdraw_post, Int.toNat_natCast]
    by_cases hx : x = n <;> simp [hx]

/-! ## The invariant of the pending sets (R420, R431) -/

theorem setIvLevel_pmic_wf (iv level : Int) {s : State} (h : s.pmic.wf = true) : (setIvLevel iv level s).pmic.wf = true := by
  by_cases hv : level < 0 ∨ 4 < level ∨ iv < 0 ∨ (ivMaxCount : Int) ≤ iv
  · rw [setIvLevel_invalid s hv]; exact h
  · obtain ⟨l, rfl⟩ := exists_level_num (level := level) (by omega) (by omega)
    rw [setIvLevel_ok l s (by omega) (by omega)]
    exact wf_withdraw_post l (by omega) h

theorem pending_acknowledge (p : Pmic) (l : Level) (iv : Nat) (k : Level) :
    (p.acknowledge l iv).pending k = if k = l then ivRemove (p.pending k) iv else p.pending k := by
  cases l <;> cases k <;> rfl

theorem acknowledge_wf {p : Pmic} (l : Level) (iv : Nat) (h : p.wf = true) : (p.acknowledge l iv).wf = true := by
  refine Pmic.wf_of_sublist (fun k => ?_) h
  rw [pending_acknowledge]
  split
  · exact List.filter_sublist
  · exact .refl _

theorem pmicRetiClear_pmic_wf {s : State} (h : s.pmic.wf = true) : (pmicRetiClear s).pmic.wf = true := by
  unfold pmicRetiClear
  split <;> exact h

/-- Of a step's updates only `set_iv_level` and the acknowledgement of a vector touch the pending sets. -/
theorem keepsStep_pmicWf : KeepsStep (fun s => s.pmic.wf = true) := by
  constructor
  case toKeeps =>
    constructor
    case ivLevel => exact fun s iv l => setIvLevel_pmic_wf iv l
    case schedule => exact fun s d c n p call hd t hs h => by rw [schedule_frame hs]; exact h
    case unschedule => exact fun s hd t hs h => by rw [unschedule_frame hs]; exact h
    all_goals intros; assumption
  case acknowledge => exact fun s l iv => acknowledge_wf l iv
  case retiClear => exact fun s => pmicRetiClear_pmic_wf
  case endCallback => exact fun s n h => by rw [endCallback_frame]; exact h
  all_goals intros; assumption

/-- Settles O56: every update a step is made of keeps the pending sets disjoint. -/
theorem stepKeepsPendingSets : Obligations.StepKeepsPendingSets := by
  unfold Obligations.StepKeepsPendingSets
  exact fun s t h hs => step_keeps keepsStep_pmicWf hs h

/-! ## The level in service (R424, R434) -/

/-- The highest bit of STATUS, told by its number. -/
theorem currentLevel_eq (p : Pmic) : p.currentLevel =
    if 8 ≤ p.status.toNat then .nmi else if 4 ≤ p.status.toNat then .hi else if 2 ≤ p.status.toNat then .med
    else if 1 ≤ p.status.toNat then .lo else .none := by
  have h : ∀ b : BitVec 4, (Pmic.mk [] [] [] [] b 0 0).currentLevel =
      if 8 ≤ b.toNat then .nmi else if 4 ≤ b.toNat then .hi else if 2 ≤ b.toNat then .med
      else if 1 ≤ b.toNat then .lo else .none := by decide
  exact h p.status

/-- The number of the level in service is the length of STATUS in bits. -/
theorem status_bounds (p : Pmic) : p.status.toNat < 2 ^ p.currentLevel.num ∧
    (p.status.toNat ≠ 0 → p.currentLevel.num ≠ 0 ∧ 2 ^ (p.currentLevel.num - 1) ≤ p.status.toNat) := by
  have hlt := p.status.isLt
  rw [currentLevel_eq]
  repeat' split
  all_goals (simp only [Level.num]; omega)

/-- Settles O42: the number of the level is the place after the highest bit. -/
theorem currentLevelIsHighest : Obligations.CurrentLevelIsHighest := by
  unfold Obligations.CurrentLevelIsHighest
  intro p
  obtain ⟨hlt, hle⟩ := status_bounds p
  have hzero : p.currentLevel.num = 0 ↔ p.currentLevel = .none := Level.num_inj (l := .none)
  have hstatus : p.status.toNat = 0 ↔ p.status = 0 := BitVec.toNat_inj (y := 0)
  refine ⟨⟨fun h => ?_, fun h => ?_⟩, fun h => ?_, fun k hk => ?_⟩
  · by_contra hne
    exact (hle (hstatus.not.mpr hne)).1 (hzero.mpr h)
  · rw [currentLevel_eq, h]; rfl
  · obtain ⟨hnum, hpow⟩ := hle (hstatus.not.mpr h)
    exact Nat.testBit_of_two_pow_le_and_two_pow_add_one_gt hpow (by rwa [Nat.sub_add_cancel (Nat.pos_of_ne_zero hnum)])
  · exact (Nat.pow_lt_pow_iff_right (by decide)).mp (Nat.lt_of_le_of_lt (Nat.ge_two_pow_of_testBit hk) hlt)

/-- Clearing the highest bit of STATUS takes its place off the number. -/
theorem status_and_not (p : Pmic) (h : p.currentLevel ≠ .none) :
    p.status &&& ~~~p.currentLevel.statusBit = BitVec.ofNat 4 (p.status.toNat - 2 ^ (p.currentLevel.num - 1)) := by
  have hfin : ∀ b : BitVec 4, (Pmic.mk [] [] [] [] b 0 0).currentLevel ≠ .none →
      b &&& ~~~(Pmic.mk [] [] [] [] b 0 0).currentLevel.statusBit =
        BitVec.ofNat 4 (b.toNat - 2 ^ ((Pmic.mk [] [] [] [] b 0 0).currentLevel.num - 1)) := by decide
  exact hfin p.status h

theorem pmicRetiClear_active {s : State} {l : Level} (hl : s.pmic.currentLevel = l) (hne : l ≠ .none) :
    pmicRetiClear s = s.setPmic { s.pmic with status := BitVec.ofNat 4 (s.pmic.status.toNat - 2 ^ (l.num - 1)) } := by
  subst hl
  rw [← status_and_not s.pmic hne]
  unfold pmicRetiClear
  split
  · next hnone => exact absurd hnone hne
  · rfl

theorem pmicRetiClear_inactive {s : State} (hl : s.pmic.currentLevel = .none) :
    pmicRetiClear s = s.record (.retiNoActiveLevel s.pc) := by
  simp only [pmicRetiClear, hl]

/-- Settles O46: RETI clears the bit of the level in service, and its return leaves SREG alone. -/
theorem retiClearsHighestLevel : Obligations.RetiClearsHighestLevel := by
  unfold Obligations.RetiClearsHighestLevel
  intro s n to_
  refine ⟨?_, rfl, fun t ht => ?_⟩
  · have hcur : s.pmic.currentLevel = if 8 ≤ n then .nmi else if 4 ≤ n then .hi else if 2 ≤ n then .med
        else if 1 ≤ n then .lo else .none := currentLevel_eq s.pmic
    split_ifs at hcur ⊢
    · exact pmicRetiClear_active hcur (by decide)
    · exact pmicRetiClear_active hcur (by decide)
    · exact pmicRetiClear_active hcur (by decide)
    · exact pmicRetiClear_active hcur (by decide)
    · exact pmicRetiClear_inactive hcur
  · exact (returnWith_sreg (s := pmicRetiClear s) ht).trans (by rw [pmicRetiClear_frame])

/-! ## Arbitration (R426) -/

/-- The head of a set that is not empty is its least vector. -/
theorem exists_least_head {l : List Nat} (h : ivSetWf l = true) (hne : l ≠ []) :
    ∃ iv, (iv ∈ l ∧ ∀ x ∈ l, iv ≤ x) ∧ l.head? = some iv := by
  obtain ⟨a, l, rfl⟩ := List.exists_cons_of_ne_nil hne
  obtain ⟨hrise, -⟩ := (ivSetWf_iff _).mp h
  obtain ⟨ha, -⟩ := List.pairwise_cons.mp hrise
  exact ⟨a, ⟨List.mem_cons_self, List.forall_mem_cons.mpr ⟨Nat.le_refl a, fun x hx => Nat.le_of_lt (ha x hx)⟩⟩, rfl⟩

/-- Settles O44: the conditions are tried in this order, and each answers the head of its set. -/
theorem arbitrationOrder : Obligations.ArbitrationOrder := by
  unfold Obligations.ArbitrationOrder
  intro p re hp cur least nmi hi med lo
  obtain ⟨hset, -⟩ := p.wf_iff.mp hp
  have hnmi : (!p.nmi.isEmpty && (re || decide (cur < 4))) = true ↔ nmi := by simp [nmi]
  have hhi : (p.ctrl.getLsbD 2 && decide (cur < 3) && !p.hi.isEmpty) = true ↔ hi := by simp [hi, and_assoc]
  have hmed : (p.ctrl.getLsbD 1 && decide (cur < 2) && !p.med.isEmpty) = true ↔ med := by simp [med, and_assoc]
  have hlo : (p.ctrl.getLsbD 0 && decide (cur < 1) && !p.lo.isEmpty) = true ↔ lo := by simp [lo, and_assoc]
  have harb : p.arbitrate re = if nmi then p.nmi.head?.map (Level.nmi, ·) else if hi then p.hi.head?.map (Level.hi, ·)
      else if med then p.med.head?.map (Level.med, ·) else if lo then p.lo.head?.map (Level.lo, ·) else none := by
    simp only [← hnmi, ← hhi, ← hmed, ← hlo]; rfl
  have answers : ∀ {k : Level}, p.pending k ≠ [] → p.arbitrate re = (p.pending k).head?.map (k, ·) →
      ∃ iv, least (p.pending k) iv ∧ p.arbitrate re = some (k, iv) := by
    intro k hne ha
    obtain ⟨iv, hleast, hhead⟩ := exists_least_head (hset k) hne
    exact ⟨iv, hleast, by rw [ha, hhead]; rfl⟩
  refine ⟨fun hn => ?_, fun hn hh => ?_, fun hn hh hm => ?_, fun hn hh hm hl => ?_, fun hn hh hm hl => ?_⟩
  · exact answers (k := .nmi) hn.1 (by rw [harb, if_pos hn]; rfl)
  · exact answers (k := .hi) hh.2.2 (by rw [harb, if_neg hn, if_pos hh]; rfl)
  · exact answers (k := .med) hm.2.2 (by rw [harb, if_neg hn, if_neg hh, if_pos hm]; rfl)
  · exact answers (k := .lo) hl.2.2 (by rw [harb, if_neg hn, if_neg hh, if_neg hm, if_pos hl]; rfl)
  · rw [harb, if_neg hn, if_neg hh, if_neg hm, if_neg hl]

/-! ## A CPU step in which no instruction runs (R430, R431, R510) -/

/-- `execute_iv` of an owner that calls no service changes at most external blocks (R411). -/
theorem executeIv_quiet {iv : Nat} {s : State} (h : quietIv s.params iv = true) :
    ∃ d, executeIv iv s = .ok { s with ext := d } := by
  unfold executeIv
  unfold quietIv at h
  split
  · next n b ho =>
    rw [ho] at h
    unfold blockExecuteIv
    split
    · next hk => exact ⟨_, hookReply_quiet (by simpa [hk] using h)⟩
    · exact ⟨s.ext, rfl⟩
  · exact ⟨s.ext, rfl⟩

theorem acknowledge_frame (p : Pmic) (l : Level) (iv : Nat) : p.acknowledge l iv =
    { p with
      status := (p.acknowledge l iv).status, lo := (p.acknowledge l iv).lo, med := (p.acknowledge l iv).med
      hi := (p.acknowledge l iv).hi, nmi := (p.acknowledge l iv).nmi } := by
  cases l <;> rfl

theorem acknowledge_status (p : Pmic) (l : Level) (iv : Nat) : (p.acknowledge l iv).status = p.status ||| l.statusBit := by
  cases l <;> rfl

/-- An interrupt taken with room on the stack and a quiet owner (R431). -/
theorem dispatch_ok {l : Level} {iv : Nat} {s : State} (hpush : canPush s s.params.retBytes = true)
    (hq : quietIv s.params iv = true) : ∃ t, dispatch l iv s = .ok t ∧ s.pushed t s.params.retBytes s.pc ∧ t = { s with
      sram := t.sram, sp := t.sp, ext := t.ext, pmic := s.pmic.acknowledge l iv, pc := vectorOf s iv
      instructionCycles := 5, interruptWait := true } := by
  obtain ⟨u, hu, hpushed, hframe⟩ := pushPc_ok (s.setPmic (s.pmic.acknowledge l iv)) s.pc hpush
  have hvec : vectorOf (s.setPmic (s.pmic.acknowledge l iv)) iv = vectorOf s iv := by
    rw [vectorOf, setPmic_pmic, acknowledge_frame]; rfl
  obtain ⟨d, hd⟩ := executeIv_quiet (iv := iv) (s := u.setPc (vectorOf s iv)) (by rw [hframe]; exact hq)
  refine ⟨{ u.setPc (vectorOf s iv) with ext := d, instructionCycles := 5, interruptWait := true }, ?_, hpushed, ?_⟩
  · show (pushPc s.pc (s.setPmic (s.pmic.acknowledge l iv))).bind _ = _
    rw [hu, hvec]
    show (executeIv iv (u.setPc (vectorOf s iv))).bind _ = _
    rw [hd]
    rfl
  · rw [hframe]; rfl

/-- Arbitration answers a level that has a status bit. -/
theorem statusBit_of_arbitrate {p : Pmic} {re : Bool} {l : Level} {iv : Nat} (h : p.arbitrate re = some (l, iv)) :
    l.statusBit = BitVec.ofNat 4 (2 ^ (l.num - 1)) := by
  cases l with
  | none =>
    unfold Pmic.arbitrate at h
    simp only at h
    repeat' split at h
    all_goals simp at h
  | lo | med | hi | nmi => rfl

theorem cpuStep_debt {s : State} (h : 0 < s.instructionCycles) : cpuStep s = .next (payTick (beginCpuStep s)) := by
  have hne : s.instructionCycles ≠ 0 := Nat.ne_of_gt h
  have hd : tryDispatch (beginCpuStep s) = .ok (beginCpuStep s) :=
    tryDispatch_none fun hdis => by simp [State.dispatchable, beginCpuStep, ccpCountDown, hne] at hdis
  simp only [cpuStep, hd]
  exact if_neg hne

/-- Settles O45: debt bars dispatch and the next instruction, and a dispatch charges the debt that bars the instruction. -/
theorem stepsWithoutInstruction : Obligations.StepsWithoutInstruction := by
  unfold Obligations.StepsWithoutInstruction
  intro s l iv
  refine ⟨cpuStep_debt, fun hc hwait hI hio hspm harb hpush hq => ?_⟩
  have hdis : (beginCpuStep s).dispatchable = true := by
    simp [State.dispatchable, beginCpuStep, ccpCountDown, hc, hwait, flagI, flag, hI, Nat.sub_eq_zero_of_le hio,
      Nat.sub_eq_zero_of_le hspm]
  obtain ⟨t, ht, hpushed, hframe⟩ := dispatch_ok (l := l) (iv := iv) (s := beginCpuStep s) hpush hq
  have htry : tryDispatch (beginCpuStep s) = .ok t := by
    have harb : (beginCpuStep s).pmic.arbitrate (beginCpuStep s).params.nmiReentrant = some (l, iv) := harb
    simp only [tryDispatch, hdis, harb, if_true, ht]
  have hcycles : t.instructionCycles = 5 := by rw [hframe]
  have hpmic : t.pmic = s.pmic.acknowledge l iv := by rw [hframe]; rfl
  refine ⟨payTick t, ?_, hpushed, fun k x => ?_, ?_, ?_, ?_⟩
  · simp only [cpuStep, htry]
    exact if_neg (by rw [hcycles]; decide)
  · show x ∈ t.pmic.pending k ↔ _
    rw [hpmic, pending_acknowledge]
    split
    · next hk => simp [mem_ivRemove, hk]
    · next hk => simp [hk]
  · show t.pmic.status = _
    rw [hpmic, acknowledge_status, statusBit_of_arbitrate harb]
  · show t.pmic = _
    rw [show (payTick t).pmic = s.pmic.acknowledge l iv from hpmic, hpmic]
    exact acknowledge_frame _ _ _
  · have hvec : (vectorOf (beginCpuStep s) iv : Int) =
        2 * iv + ↑(if s.pmic.ctrl.getLsbD 6 then (s.params.flashSize - s.params.flashBootSize) / 2 else 0) := by
      push_cast [vectorOf]; rfl
    rw [hframe, hvec]
    simp only [payTick, beginCpuStep, ccpCountDown, Nat.sub_eq_zero_of_le hio, Nat.sub_eq_zero_of_le hspm]

end Sys2Proof.Machine
end

section
/-! PROOFS. The statements on the clock (60_exceptions.md R441 to R466) and on the registers of PMIC (R421 to R423): the domain
scales, the rescale of events, and what the addresses of both blocks answer. -/

namespace Sys2Proof.Machine

open Sys2Proof

/-! ## Domain scales (R451, R455) -/

theorem extractLsb'_toNat (v : Byte) (lo len : Nat) : (v.extractLsb' lo len).toNat = v.toNat / 2 ^ lo % 2 ^ len := by
  rw [BitVec.extractLsb'_toNat, Nat.shiftRight_eq_div_pow]

/-- The A field by its code (R451). -/
theorem prescA_eq (v : Byte) : prescA v =
    let code := v.toNat / 4 % 32
    if code = 0 then some 1 else if code % 2 = 1 ∧ code ≤ 17 then some (2 ^ ((code + 1) / 2)) else none := by
  have hcode : v.toNat / 4 % 32 < 32 := Nat.mod_lt _ (by decide)
  unfold prescA
  rw [show (v.extractLsb' 2 5).toNat = v.toNat / 4 % 32 from extractLsb'_toNat v 2 5]
  generalize v.toNat / 4 % 32 = code at hcode
  interval_cases code <;> rfl

/-- The B and C fields by their code (R451). -/
theorem prescBC_eq (v : Byte) : prescBC v =
    let bc := v.toNat % 4
    (if bc = 2 then 4 else if bc = 3 then 2 else 1, if bc = 1 ∨ bc = 3 then 2 else 1) := by
  have hcode : v.toNat % 4 < 4 := Nat.mod_lt _ (by decide)
  unfold prescBC
  rw [show (v.extractLsb' 0 2).toNat = v.toNat % 4 by rw [extractLsb'_toNat]; simp]
  generalize v.toNat % 4 = code at hcode
  interval_cases code <;> rfl

/-- Settles O47: the two fields are read off their codes. -/
theorem domainScales : Obligations.DomainScales := by
  unfold Obligations.DomainScales
  intro psctrl code bc a b c
  have hcode : prescA psctrl =
      if code = 0 then some 1 else if code % 2 = 1 ∧ code ≤ 17 then some (2 ^ ((code + 1) / 2)) else none := prescA_eq psctrl
  have hBC : prescBC psctrl = (b, c) := prescBC_eq psctrl
  have hiff : (prescA psctrl).isSome = true ↔ code = 0 ∨ (code % 2 = 1 ∧ code ≤ 17) := by
    rw [hcode]; split_ifs <;> simp [*]
  refine ⟨hiff, rfl, rfl, fun h => ?_⟩
  have hA : prescA psctrl = some a := by
    have haccepted := hiff.mp h
    rw [hcode]
    split_ifs with h0 h1
    · simp [a, h0]
    · simp [a, h0]
    · tauto
  simp only [scaleOf, hA, hBC, Option.getD_some, and_self]

theorem scaleOf_pos (psctrl : Byte) (d : Domain) : 0 < scaleOf psctrl d := by
  have hA : 0 < (prescA psctrl).getD 1 := by
    rw [prescA_eq]
    dsimp only
    split_ifs <;> simp
  have hB : 0 < (prescBC psctrl).1 := by
    rw [prescBC_eq]; dsimp only; split_ifs <;> simp
  have hC : 0 < (prescBC psctrl).2 := by
    rw [prescBC_eq]; dsimp only; split_ifs <;> simp
  cases d with
  | sys | asy => exact Nat.one_pos
  | cpu | per => exact Nat.mul_pos (Nat.mul_pos hA hB) hC
  | per2 => exact Nat.mul_pos hA hB
  | per4 => exact hA

/-! ## The rescale of an event (R466) -/

theorem rescale_same {psctrl : Byte} (now : Nat) {e : Event} (h : e.scale = scaleOf psctrl e.domain) :
    e.rescale psctrl now = e := if_pos h.symm

/-- An event whose scale changes is due the domain ticks that remain, rounded up, after now. -/
theorem rescale_changed {psctrl : Byte} (now : Nat) {e : Event} (h : e.scale ≠ scaleOf psctrl e.domain) :
    e.rescale psctrl now = { e with
      tick := now + (e.tick - now + e.scale - 1) / e.scale * scaleOf psctrl e.domain, scale := scaleOf psctrl e.domain } :=
  if_neg (Ne.symm h)

theorem rescale_scale (psctrl : Byte) (now : Nat) (e : Event) :
    (e.rescale psctrl now).scale = scaleOf psctrl e.domain := by
  by_cases h : e.scale = scaleOf psctrl e.domain
  · rw [rescale_same now h, h]
  · rw [rescale_changed now h]

theorem rescale_frame (psctrl : Byte) (now : Nat) (e : Event) : e.rescale psctrl now =
    { e with tick := (e.rescale psctrl now).tick, scale := (e.rescale psctrl now).scale } := by
  by_cases h : e.scale = scaleOf psctrl e.domain
  · rw [rescale_same now h]
  · rw [rescale_changed now h]

/-- The ticks of a scale that a number of SYS ticks takes, rounded up. -/
theorem ceilDiv_eq {m k scale : Nat} (h1 : m ≤ k * scale) (h2 : k * scale < m + scale) : (m + scale - 1) / scale = k := by
  refine Nat.div_eq_of_lt_le (by omega) ?_
  rw [Nat.succ_mul]
  omega

/-- Settles O48: an event `k` ticks of its old scale away is then `k` ticks of its new one away. -/
theorem rescaleKeepsRemainingTicks : Obligations.RescaleKeepsRemainingTicks := by
  unfold Obligations.RescaleKeepsRemainingTicks
  intro psctrl now k e hscale f
  refine ⟨rescale_scale psctrl now e, rescale_frame psctrl now e, rescale_same now, fun hne h1 h2 hnow => ?_⟩
  have hk : (e.tick - now + e.scale - 1) / e.scale = k := ceilDiv_eq (by omega) (by omega)
  simp only [f, rescale_changed now hne, hk]

/-- A rescale moves no event before now, and makes none due that was not. -/
theorem rescale_tick (psctrl : Byte) {now : Nat} {e : Event} (hscale : 0 < e.scale) (hnow : now ≤ e.tick) :
    now ≤ (e.rescale psctrl now).tick ∧ ((e.rescale psctrl now).tick ≤ now ↔ e.tick ≤ now) := by
  by_cases h : e.scale = scaleOf psctrl e.domain
  · rw [rescale_same now h]; exact ⟨hnow, Iff.rfl⟩
  · rw [rescale_changed now h]
    refine ⟨Nat.le_add_right _ _, ?_⟩
    have hpos := scaleOf_pos psctrl e.domain
    show now + _ ≤ now ↔ _
    rw [add_le_iff_nonpos_right, Nat.le_zero, Nat.mul_eq_zero, Nat.div_eq_zero_iff]
    omega

/-! ## The owner of an I/O address (R90) -/

/-- On a connectable registry a block owns every address of its range. -/
theorem ioOwnerFrom_of_mem {bs : List BlockDecl} (n : Nat) {b : BlockDecl} {a : Nat} (h : Params.connectable bs = true)
    (hb : b ∈ bs) (h1 : b.ioBase ≤ a) (h2 : a < b.ioBase + b.ioSize) : ∃ k, ioOwnerFrom bs n a = some (k, b) := by
  induction bs generalizing n with
  | nil => cases hb
  | cons c bs ih =>
    simp only [Params.connectable, Bool.and_eq_true, List.all_eq_true, Bool.not_eq_true'] at h
    obtain ⟨⟨-, happart⟩, hrest⟩ := h
    unfold ioOwnerFrom
    rcases List.mem_cons.mp hb with rfl | hb
    · exact ⟨n, if_pos ⟨h1, h2⟩⟩
    · have hmeet := (happart b hb).1
      rw [if_neg]
      · exact ih (n + 1) hrest hb
      · rintro ⟨hc1, hc2⟩
        simp [Params.rangesMeet] at hmeet
        omega

theorem connectable_of_valid {p : Params} (h : p.valid = true) : Params.connectable p.registry = true := by
  simp only [Params.valid, Bool.and_eq_true] at h
  obtain ⟨⟨⟨-, hconnect⟩, -⟩, -⟩ := h
  exact hconnect

/-- On a valid device the CLK block owns its eight addresses (R450). -/
theorem ioOwner_clk {p : Params} {a : Nat} (hp : p.valid = true) (h1 : 0x40 ≤ a) (h2 : a < 0x48) :
    ∃ k, ioOwner p a = some (k, Params.clkBlock) :=
  ioOwnerFrom_of_mem 0 (connectable_of_valid hp) (by simp [Params.registry]) h1 h2

/-- On a valid device the PMIC block owns its three addresses (R421). -/
theorem ioOwner_pmic {p : Params} {a : Nat} (hp : p.valid = true) (h1 : 0xA0 ≤ a) (h2 : a < 0xA3) :
    ∃ k, ioOwner p a = some (k, Params.pmicBlock) :=
  ioOwnerFrom_of_mem 0 (connectable_of_valid hp) (by simp [Params.registry]) h1 h2

/-! ## The registers of CLK (R441, R450 to R454) -/

theorem memRead_clk {s : State} {a : DataAddr} (hp : s.params.valid = true) (h1 : 0x40 ≤ a.toNat) (h2 : a.toNat < 0x48) :
    memRead a s = .ok (clkRead (a.toNat - 0x40) s) := by
  obtain ⟨k, ho⟩ := ioOwner_clk hp h1 h2
  rw [memRead_io (by omega), ioRead_owned ho]
  rfl

theorem memWrite_clk {s : State} {a : DataAddr} (v : Byte) (hp : s.params.valid = true) (h1 : 0x40 ≤ a.toNat)
    (h2 : a.toNat < 0x48) : memWrite a v s = .ok (clkWrite (a.toNat - 0x40) a.toNat v s) := by
  obtain ⟨k, ho⟩ := ioOwner_clk hp h1 h2
  rw [memWrite_io (by omega), ioWrite_owned v ho]
  show Except.ok (clkWrite (a.toNat - 0x40) (0x40 + (a.toNat - 0x40)) v s) = _
  rw [Nat.add_sub_cancel' h1]

theorem windowOpen_iff (s : State) : s.windowOpen = true ↔ 0 < s.ccpIoreg := by simp [State.windowOpen]

theorem clkOpen_iff (s : State) : s.clkOpen = true ↔ 0 < s.ccpIoreg ∧ s.clk.lock.getLsbD 0 = false := by
  simp [State.clkOpen, windowOpen_iff]

theorem writePsctrl_eq (v : Byte) (s : State) : writePsctrl v s =
    if prescA v = none then s.record (.clkReservedValue v)
    else onClockConfigChange (s.setClk { s.clk with psctrl := v &&& 0x7F }) := by
  unfold writePsctrl
  split
  · next h => rw [if_pos h]
  · next h => rw [if_neg (by simp [h])]

/-- Settles O31: on a valid device the CLK block answers at its addresses, each register by its own rule. -/
theorem clockRegisters : Obligations.ClockRegisters := by
  unfold Obligations.ClockRegisters
  intro v s hp unlocked refused
  have hopen : s.clkOpen = true ↔ unlocked := clkOpen_iff s
  refine ⟨?_, ?_, ?_, memWrite_clk v hp (by decide) (by decide), memRead_clk hp (by decide) (by decide),
    memRead_clk hp (by decide) (by decide), memRead_clk hp (by decide) (by decide), memRead_clk hp (by decide) (by decide),
    fun k => ?_⟩
  · rw [memWrite_clk v hp (by decide) (by decide)]
    show Except.ok (if s.clkOpen = true then _ else _) = _
    simp only [hopen]
    split <;> rfl
  · rw [memWrite_clk v hp (by decide) (by decide)]
    show Except.ok (if s.clkOpen = true then writePsctrl v s else _) = _
    rw [writePsctrl_eq]
    simp only [hopen]
    split
    · split <;> rfl
    · rfl
  · rw [memWrite_clk v hp (by decide) (by decide)]
    show Except.ok (if s.windowOpen = true then _ else _) = _
    simp only [windowOpen_iff]
    split <;> rfl
  · fin_cases k
    · exact ⟨memWrite_clk v hp (by decide) (by decide), memRead_clk hp (by decide) (by decide)⟩
    · exact ⟨memWrite_clk v hp (by decide) (by decide), memRead_clk hp (by decide) (by decide)⟩
    · exact ⟨memWrite_clk v hp (by decide) (by decide), memRead_clk hp (by decide) (by decide)⟩
    · exact ⟨memWrite_clk v hp (by decide) (by decide), memRead_clk hp (by decide) (by decide)⟩

/-! ## The registers of PMIC (R421 to R423) -/

theorem memRead_pmic {s : State} {a : DataAddr} {n : Nat} (hp : s.params.valid = true) (ha : a.toNat = n) (h1 : 0xA0 ≤ n)
    (h2 : n < 0xA3) : memRead a s = .ok (pmicRead (n - 0xA0) s, s) := by
  subst ha
  obtain ⟨k, ho⟩ := ioOwner_pmic hp h1 h2
  rw [memRead_io (by omega), ioRead_owned ho]
  rfl

theorem memWrite_pmic {s : State} {a : DataAddr} {n : Nat} (v : Byte) (hp : s.params.valid = true) (ha : a.toNat = n)
    (h1 : 0xA0 ≤ n) (h2 : n < 0xA3) : memWrite a v s = .ok (pmicWrite (n - 0xA0) n v s) := by
  subst ha
  obtain ⟨k, ho⟩ := ioOwner_pmic hp h1 h2
  rw [memWrite_io (by omega), ioWrite_owned v ho]
  show Except.ok (pmicWrite (a.toNat - 0xA0) (0xA0 + (a.toNat - 0xA0)) v s) = _
  rw [Nat.add_sub_cancel' h1]

/-- Settles O32: on a valid device the PMIC block answers at its addresses. -/
theorem pmicRegisters : Obligations.PmicRegisters := by
  unfold Obligations.PmicRegisters
  intro v s hp
  rw [BitVec.ofNat_toNat]
  exact ⟨memRead_pmic (n := 0xA0) hp rfl (by decide) (by decide), memWrite_pmic (n := 0xA0) v hp rfl (by decide) (by decide),
    memRead_pmic (n := 0xA1) hp rfl (by decide) (by decide), memWrite_pmic (n := 0xA1) v hp rfl (by decide) (by decide),
    memRead_pmic (n := 0xA2) hp rfl (by decide) (by decide), memWrite_pmic (n := 0xA2) v hp rfl (by decide) (by decide)⟩

end Sys2Proof.Machine
end

section
/-! PROOFS. The statements on the scheduler (60_exceptions.md R460 to R468, 70_reset_and_hazards.md R501, R506, R523): the order
of the heap that every step, `reset()` and every call between steps keep, and the calls `schedule` and `unschedule`. -/

namespace Sys2Proof.Machine

open Sys2Proof

/-! ## The order within a step (R461 to R463, R466, R468) -/

/-- Every event of the scheduler, the running one included. -/
def Sched.events (c : Sched) : List Event := c.heap ++ c.running.toList

/-- The scheduler while a step fires what is due at the tick `now`: as between steps, but events of the heap may be due at
`now`, at most `n` of them, and so is the event that runs, if any. -/
structure Sched.InStep (psctrl : Byte) (now n : Nat) (c : Sched) : Prop where
  time : c.currentSysTick = now
  rising : (c.heap.map Event.seq).Pairwise (· < ·)
  events : ∀ e ∈ c.events, e.scale = scaleOf psctrl e.domain ∧ now ≤ e.tick ∧ e.handle < c.nextHandle ∧ e.seq < c.nextSeq
  running : ∀ e ∈ c.running, e.tick = now
  cpu : ∃ e ∈ c.events, e.callback = .cpuStep
  due : c.heap.countP (fun e => decide (e.tick ≤ now)) ≤ n

theorem Sched.mem_events {c : Sched} {e : Event} : e ∈ c.events ↔ e ∈ c.heap ∨ e ∈ c.running := by
  simp [Sched.events]

/-- Between steps no callback runs and nothing is due. -/
theorem Sched.wf_iff (psctrl : Byte) (c : Sched) :
    c.wf psctrl = true ↔ c.running = none ∧ c.InStep psctrl c.currentSysTick 0 := by
  simp only [Sched.wf, Bool.and_eq_true, Option.isNone_iff_eq_none, rising_iff_pairwise, List.all_eq_true, List.any_eq_true,
    eventWf, decide_eq_true_eq, beq_iff_eq]
  constructor
  · rintro ⟨⟨⟨hrun, hrise⟩, hev⟩, e, he, hcpu⟩
    refine ⟨hrun, rfl, hrise, fun f hf => ?_, by simp [hrun], ⟨e, Sched.mem_events.mpr (.inl he), hcpu⟩, ?_⟩
    · obtain ⟨⟨⟨hscale, htick⟩, hhandle⟩, hseq⟩ := hev f (by simpa [Sched.mem_events, hrun] using hf)
      exact ⟨hscale, Nat.le_of_lt htick, hhandle, hseq⟩
    · refine Nat.le_zero.mpr (List.countP_eq_zero.mpr fun f hf => ?_)
      obtain ⟨⟨⟨-, htick⟩, -⟩, -⟩ := hev f hf
      simpa using htick
  · rintro ⟨hrun, h⟩
    refine ⟨⟨⟨hrun, h.rising⟩, fun f hf => ?_⟩, ?_⟩
    · obtain ⟨hscale, -, hhandle, hseq⟩ := h.events f (Sched.mem_events.mpr (.inl hf))
      have htick := List.countP_eq_zero.mp (Nat.le_zero.mp h.due) f hf
      exact ⟨⟨⟨hscale, by simpa using htick⟩, hhandle⟩, hseq⟩
    · obtain ⟨e, he, hcpu⟩ := h.cpu
      exact ⟨e, by simpa [Sched.mem_events, hrun] using he, hcpu⟩

section
variable {psctrl : Byte} {now n : Nat} {c : Sched}

/-- An event added with the next number, due later. -/
theorem Sched.InStep.push (h : c.InStep psctrl now n) {e : Event} {handle : Nat} (hscale : e.scale = scaleOf psctrl e.domain)
    (htick : now < e.tick) (hhandle : e.handle < handle) (hle : c.nextHandle ≤ handle) (hseq : e.seq = c.nextSeq) :
    { c with heap := c.heap ++ [e], nextHandle := handle, nextSeq := c.nextSeq + 1 }.InStep psctrl now n where
  time := h.time
  rising := by
    simp only [List.map_append, List.map_cons, List.map_nil, List.pairwise_append, List.pairwise_singleton]
    refine ⟨h.rising, trivial, fun a ha b hb => ?_⟩
    obtain ⟨f, hf, rfl⟩ := List.mem_map.mp ha
    obtain ⟨-, -, -, hlt⟩ := h.events f (Sched.mem_events.mpr (.inl hf))
    simp_all
  events := by
    intro f hf
    have hf : f = e ∨ f ∈ c.events := by
      simp only [Sched.mem_events, List.mem_append, List.mem_singleton] at hf ⊢
      tauto
    rcases hf with rfl | hf
    · exact ⟨hscale, Nat.le_of_lt htick, hhandle, by rw [hseq]; exact Nat.lt_succ_self _⟩
    · obtain ⟨hscale, htick, hhandle, hseq⟩ := h.events f hf
      exact ⟨hscale, htick, Nat.lt_of_lt_of_le hhandle hle, Nat.lt_succ_of_lt hseq⟩
  running := h.running
  cpu := by
    obtain ⟨f, hf, hcpu⟩ := h.cpu
    refine ⟨f, ?_, hcpu⟩
    simp only [Sched.mem_events, List.mem_append] at hf ⊢
    tauto
  due := by simpa [List.countP_append, Nat.not_le.mpr htick] using h.due

/-- Events taken out of the heap, the CPU event not among them. -/
theorem Sched.InStep.filter (h : c.InStep psctrl now n) {keep : Event → Bool}
    (hcpu : ∀ e, e.callback = .cpuStep → keep e = true) : { c with heap := c.heap.filter keep }.InStep psctrl now n where
  time := h.time
  rising := h.rising.sublist (List.filter_sublist.map _)
  events e he := h.events e (by simp only [Sched.mem_events, List.mem_filter] at he ⊢; tauto)
  running := h.running
  cpu := by
    obtain ⟨e, he, hc⟩ := h.cpu
    have hkeep := hcpu e hc
    exact ⟨e, by simp only [Sched.mem_events, List.mem_filter] at he ⊢; tauto, hc⟩
  due := Nat.le_trans (List.Sublist.countP_le List.filter_sublist) h.due

/-- The end of the running event's callback, when another event, or a copy of it, is the CPU event. -/
theorem Sched.InStep.stop (h : c.InStep psctrl now n) (hcpu : ∃ e ∈ c.heap, e.callback = .cpuStep) :
    { c with running := none }.InStep psctrl now n where
  time := h.time
  rising := h.rising
  events e he := h.events e (by simp only [Sched.mem_events] at he ⊢; simp_all)
  running := by simp
  cpu := by
    obtain ⟨e, he, hc⟩ := hcpu
    exact ⟨e, Sched.mem_events.mpr (.inl he), hc⟩
  due := h.due

/-- The running event put back in the heap some ticks of its domain later, with the next number. -/
theorem Sched.InStep.again (h : c.InStep psctrl now n) {e : Event} {k : Nat} (hrun : c.running = some e) (hk : k ≠ 0) :
    { c with
      running := none, heap := c.heap ++ [{ e with tick := e.tick + k * e.scale, seq := c.nextSeq }]
      nextSeq := c.nextSeq + 1 }.InStep psctrl now n := by
  have hmem : e ∈ c.running := hrun
  obtain ⟨hscale, hnow, hhandle, -⟩ := h.events e (Sched.mem_events.mpr (.inr hmem))
  have htick : now < e.tick + k * e.scale :=
    Nat.lt_of_le_of_lt hnow
      (Nat.lt_add_of_pos_right (Nat.mul_pos (Nat.pos_of_ne_zero hk) (hscale ▸ scaleOf_pos psctrl e.domain)))
  refine (h.push (e := { e with tick := e.tick + k * e.scale, seq := c.nextSeq }) hscale htick hhandle (Nat.le_refl _)
    rfl).stop ?_
  obtain ⟨f, hf, hc⟩ := h.cpu
  rcases Sched.mem_events.mp hf with hf | hf
  · exact ⟨f, List.mem_append_left _ hf, hc⟩
  · rw [hrun, Option.mem_some_iff] at hf
    exact ⟨_, List.mem_append_right _ (List.mem_singleton.mpr rfl), hf ▸ hc⟩

/-- A due event of the heap made the running one. -/
theorem Sched.InStep.fire (h : c.InStep psctrl now (n + 1)) (hrun : c.running = none) {e : Event} (he : e ∈ c.heap)
    (hdue : e.tick ≤ now) : { c with heap := c.heap.erase e, running := some e }.InStep psctrl now n where
  time := h.time
  rising := h.rising.sublist ((List.erase_sublist ..).map _)
  events f hf := by
    refine h.events f (Sched.mem_events.mpr (.inl ?_))
    simp only [Sched.mem_events, Option.mem_some_iff] at hf
    rcases hf with hf | rfl
    · exact List.mem_of_mem_erase hf
    · exact he
  running := by
    obtain ⟨-, hnow, -⟩ := h.events e (Sched.mem_events.mpr (.inl he))
    simp only [Option.mem_some_iff]
    rintro f rfl
    exact Nat.le_antisymm hdue hnow
  cpu := by
    obtain ⟨f, hf, hc⟩ := h.cpu
    have hf : f ∈ c.heap := by simpa [Sched.mem_events, hrun] using hf
    refine ⟨f, Sched.mem_events.mpr ?_, hc⟩
    by_cases hne : f = e
    · exact .inr (by simp [hne])
    · exact .inl ((List.mem_erase_of_ne hne).mpr hf)
  due := by
    have hd := h.due
    rw [List.countP_erase, if_pos ⟨he, by simpa using hdue⟩]
    omega

/-- A change of the prescaler (R466): what is due stays due, and what is later stays later. -/
theorem Sched.InStep.rescale (h : c.InStep psctrl now n) (psctrl' : Byte) :
    { c with
      heap := c.heap.map (Event.rescale psctrl' c.currentSysTick)
      running := c.running.map (Event.rescale psctrl' c.currentSysTick) }.InStep psctrl' now n := by
  obtain ⟨rfl, hrise, hev, hrun, hcpu, hdue⟩ := h
  have htick : ∀ e ∈ c.events, c.currentSysTick ≤ (e.rescale psctrl' c.currentSysTick).tick ∧
      ((e.rescale psctrl' c.currentSysTick).tick ≤ c.currentSysTick ↔ e.tick ≤ c.currentSysTick) := by
    intro e he
    obtain ⟨hscale, hnow, -⟩ := hev e he
    exact rescale_tick psctrl' (hscale ▸ scaleOf_pos _ _) hnow
  have hmap : ({ c with
      heap := c.heap.map (Event.rescale psctrl' c.currentSysTick)
      running := c.running.map (Event.rescale psctrl' c.currentSysTick) } : Sched).events =
      c.events.map (Event.rescale psctrl' c.currentSysTick) := by
    cases hr : c.running <;> simp [Sched.events, hr]
  refine ⟨rfl, ?_, fun f hf => ?_, fun f hf => ?_, ?_, ?_⟩
  · have hseq : Event.seq ∘ Event.rescale psctrl' c.currentSysTick = Event.seq :=
      funext fun e => by rw [Function.comp, rescale_frame]
    rw [List.map_map, hseq]
    exact hrise
  · rw [hmap] at hf
    obtain ⟨e, he, rfl⟩ := List.mem_map.mp hf
    obtain ⟨-, -, hhandle, hseq⟩ := hev e he
    have hframe := rescale_frame psctrl' c.currentSysTick e
    refine ⟨?_, (htick e he).1, by rw [hframe]; exact hhandle, by rw [hframe]; exact hseq⟩
    rw [rescale_scale, hframe]
  · obtain ⟨e, he, rfl⟩ := Option.map_eq_some_iff.mp hf
    obtain ⟨hle, hiff⟩ := htick e (Sched.mem_events.mpr (.inr he))
    exact Nat.le_antisymm (hiff.mpr (hrun e he).le) hle
  · obtain ⟨e, he, hc⟩ := hcpu
    refine ⟨_, by rw [hmap]; exact List.mem_map_of_mem he, ?_⟩
    rw [rescale_frame]
    exact hc
  · rw [List.countP_map]
    refine Nat.le_trans (Nat.le_of_eq (List.countP_congr fun e he => ?_)) hdue
    simpa using (htick e (Sched.mem_events.mpr (.inl he))).2

end

/-! ## What an instruction keeps of the scheduler -/

/-- The tick of an event is later than now, however the ticks of its domain fall. -/
theorem lt_boundary (now : Nat) {n scale : Nat} (hn : n ≠ 0) (hscale : 0 < scale) : now < (now / scale + n) * scale := by
  have h := Nat.lt_mul_div_succ now hscale
  calc now < scale * (now / scale + 1) := h
    _ = (now / scale + 1) * scale := Nat.mul_comm _ _
    _ ≤ (now / scale + n) * scale := Nat.mul_le_mul_right _ (by omega)

/-- Every update of an instruction keeps the order within a step, and whether a callback runs. -/
theorem keeps_inStep (now n : Nat) (b : Bool) :
    Keeps (fun s => s.sched.running.isNone = b ∧ s.sched.InStep s.clk.psctrl now n) := by
  constructor
  case ivLevel => exact fun s iv l h => by rw [setIvLevel_frame]; exact h
  case psctrl =>
    rintro s v - ⟨hb, h⟩
    exact ⟨by simpa [onClockConfigChange] using hb, h.rescale (v &&& 0x7F)⟩
  case schedule =>
    rintro s d cb k p call hd t hs ⟨hb, h⟩
    obtain ⟨hk, -, rfl, l, rfl⟩ := schedule_ok hs
    refine ⟨hb, h.push rfl ?_ (Nat.lt_succ_self _) (Nat.le_succ _) rfl⟩
    rw [h.time]
    exact lt_boundary now hk (scaleOf_pos _ _)
  case unschedule =>
    rintro s hd t hs ⟨hb, h⟩
    obtain ⟨-, rfl | rfl⟩ := unschedule_ok hs
    · exact ⟨hb, h⟩
    · exact ⟨hb, h.filter fun e hc => by simp [Event.named, hc]⟩
  all_goals intros; assumption

/-- What every property that the updates of an instruction keep is kept by, keeps the order between steps. -/
theorem schedWf_of_keeps {s t : State} (hk : ∀ P : State → Prop, Keeps P → P s → P t) (h : s.sched.wf s.clk.psctrl = true) :
    t.sched.wf t.clk.psctrl = true := by
  obtain ⟨hrun, hin⟩ := (Sched.wf_iff _ _).mp h
  obtain ⟨hrun, hin⟩ := hk _ (keeps_inStep s.sched.currentSysTick 0 true) ⟨by simp [hrun], hin⟩
  exact (Sched.wf_iff _ _).mpr ⟨by simpa using hrun, by rw [hin.time]; exact hin⟩

/-! ## What a CPU step keeps of the scheduler -/

/-- The updates a CPU step is made of: those of an instruction, and those of R394, R431, R434 and R510. `KeepsStep` asks in
addition that events may be fired and their callbacks ended in any order, which the order within a step does not survive. -/
structure KeepsCpuStep (P : State → Prop) : Prop extends Keeps P where
  wait : ∀ s b, P s → P { s with interruptWait := b }
  breaked : ∀ s b, P s → P { s with breaked := b }
  countDown : ∀ s, P s → P (ccpCountDown s)
  acknowledge : ∀ s l iv, P s → P (s.setPmic (s.pmic.acknowledge l iv))
  retiClear : ∀ s, P s → P (pmicRetiClear s)

section
variable {P : State → Prop}

theorem KeepsCpuStep.executeNext (K : KeepsCpuStep P) {s t : State} (h : executeNext s = .next t) (hs : P s) : P t := by
  unfold Machine.executeNext at h
  split at h
  · cases h
  · split at h
    · cases h
    · split at h
      · exact exec_keeps K.toKeeps (fun _ => K.retiClear) (fun _ s hs => K.breaked s true hs) h hs
      · cases h; exact K.toKeeps.retire _ _ _ _ (K.record _ _ hs)

theorem KeepsCpuStep.dispatch (K : KeepsCpuStep P) {l : Level} {iv : Nat} {s t : State} (h : dispatch l iv s = .ok t)
    (hs : P s) : P t := by
  obtain ⟨u, hpush, h⟩ := bind_ok (f := _) h
  obtain ⟨w, hexec, h⟩ := bind_ok (f := _) h
  have hu : P u := K.toKeeps.pushPc hpush (K.acknowledge s l iv hs)
  have hw : P w := by
    unfold executeIv at hexec
    split at hexec
    · exact K.toKeeps.blockExecuteIv hexec (K.pc _ _ hu)
    · cases hexec; exact K.pc _ _ hu
  cases h
  exact K.wait { w with instructionCycles := 5 } true (K.cycles w 5 hw)

theorem KeepsCpuStep.tryDispatch (K : KeepsCpuStep P) {s t : State} (h : tryDispatch s = .ok t) (hs : P s) : P t := by
  unfold Machine.tryDispatch at h
  split at h
  · split at h
    · exact K.dispatch h hs
    · cases h; exact hs
  · cases h; exact hs

/-- A property that every update of a CPU step keeps is kept by every CPU step. -/
theorem KeepsCpuStep.cpuStep (K : KeepsCpuStep P) {s t : State} (h : cpuStep s = .next t) (hs : P s) : P t := by
  unfold Machine.cpuStep at h
  split at h
  · cases h
  · next u htry =>
    have hu : P u := K.tryDispatch htry (K.countDown _ (K.breaked s false hs))
    unfold executeAndPay at h
    split at h
    · obtain ⟨w, hexec, h⟩ := andThen_next h
      cases h
      exact K.cycles _ _ (K.wait _ _ (K.executeNext hexec hu))
    · cases h; exact K.cycles _ _ hu

end

theorem keepsCpuStep_inStep (now n : Nat) (b : Bool) :
    KeepsCpuStep (fun s => s.sched.running.isNone = b ∧ s.sched.InStep s.clk.psctrl now n) := by
  constructor
  case toKeeps => exact keeps_inStep now n b
  case retiClear => exact fun s h => by rw [pmicRetiClear_frame]; exact h
  all_goals intros; assumption

/-! ## Every step (R463) -/

/-- The end of a callback: its event goes back in later, or is dropped, which the CPU event never is. -/
theorem inStep_endCallback {now n k : Nat} {s : State} {e : Event} (hrun : s.sched.running = some e)
    (h : s.sched.InStep s.clk.psctrl now n) (hk : k = 0 → e.callback ≠ .cpuStep) :
    (endCallback k s).sched.running = none ∧ (endCallback k s).sched.InStep (endCallback k s).clk.psctrl now n := by
  rw [endCallback_running k hrun, State.putBack]
  refine ⟨rfl, ?_⟩
  simp only [setSched_sched, setSched_clk]
  by_cases h0 : k = 0
  · simp only [if_pos h0, List.append_nil, Nat.add_zero]
    obtain ⟨f, hf, hc⟩ := h.cpu
    refine h.stop ⟨f, ?_, hc⟩
    rcases Sched.mem_events.mp hf with hf | hf
    · exact hf
    · rw [hrun, Option.mem_some_iff] at hf
      exact absurd (hf ▸ hc) (hk h0)
  · simp only [if_neg h0]
    exact h.again hrun h0

/-- Firing a due event leaves one due event less. -/
theorem inStep_fireEvent {now n : Nat} {e : Event} {s t : State} (hrun : s.sched.running = none)
    (h : s.sched.InStep s.clk.psctrl now (n + 1)) (he : e ∈ s.sched.heap) (hdue : e.tick ≤ now)
    (hf : fireEvent e s = .next t) : t.sched.running = none ∧ t.sched.InStep t.clk.psctrl now n := by
  have hfire : (s.withRunning e).sched.InStep s.clk.psctrl now n := h.fire hrun he hdue
  cases hc : e.callback with
  | cpuStep =>
    rw [fireEvent_cpuStep s hc] at hf
    obtain ⟨u, hu, hf⟩ := andThen_next hf
    cases hf
    obtain ⟨hsome, hin⟩ := (keepsCpuStep_inStep now n false).cpuStep hu ⟨rfl, hfire⟩
    obtain ⟨r, hr⟩ := Option.isSome_iff_exists.mp (Option.isNone_eq_false_iff.mp hsome)
    exact inStep_endCallback hr hin fun h => absurd h (by decide)
  | client owner tag =>
    rw [fireEvent_client s hc] at hf
    obtain ⟨u, hu, rfl⟩ := finish_next hf
    by_cases hl : ∀ c ∈ (Config.extCallback owner tag (s.extData owner) s.peek).calls, ∃ iv level, c = .setIvLevel iv level
    · obtain ⟨w, hw, hframe⟩ := serveAll_setIvLevel owner hl ((s.withRunning e).setExt owner _)
      cases hw.symm.trans hu
      refine inStep_endCallback (e := e) (by rw [hframe]; rfl) (by rw [hframe]; exact hfire) fun _ => by simp [hc]
    · obtain ⟨f, hf⟩ := serveAll_running_error owner (s := (s.withRunning e).setExt owner _) rfl hl
      cases hf.symm.trans hu

/-- Nothing that comes before the earliest event is in the heap. -/
theorem tick_minEvent_le {h : List Event} {e : Event} (hm : minEvent h = some e) : ∀ f ∈ h, e.tick ≤ f.tick := by
  intro f hf
  have hb := not_before_minEvent hm f hf
  rw [Event.before_iff] at hb
  omega

/-- When no event is due any more the scheduler is in order between steps. -/
theorem schedWf_of_inStep {now n : Nat} {s : State} (hrun : s.sched.running = none) (h : s.sched.InStep s.clk.psctrl now n)
    (hlater : n = 0 ∨ ∀ e ∈ s.sched.heap, now < e.tick) :
    s.sched.wf s.clk.psctrl = true ∧ s.sched.currentSysTick = now := by
  have hdue : s.sched.heap.countP (fun e => decide (e.tick ≤ now)) ≤ 0 := by
    rcases hlater with rfl | hlater
    · exact h.due
    · exact Nat.le_of_eq (List.countP_eq_zero.mpr fun e he => by simpa using hlater e he)
  exact ⟨(Sched.wf_iff _ _).mpr ⟨hrun, h.time.symm ▸ { h with due := hdue }⟩, h.time⟩

/-- The loop of a step ends with nothing due. -/
theorem schedWf_fireDue {now n : Nat} {s t : State} (hrun : s.sched.running = none)
    (h : s.sched.InStep s.clk.psctrl now n) (hf : fireDue n s = .next t) :
    t.sched.wf t.clk.psctrl = true ∧ t.sched.currentSysTick = now := by
  induction n generalizing s with
  | zero => cases hf; exact schedWf_of_inStep hrun h (.inl rfl)
  | succ n ih =>
    cases hm : minEvent s.sched.heap with
    | none =>
      rw [fireDue_empty _ hm] at hf
      cases hf
      exact schedWf_of_inStep hrun h (.inr (by simp [(minEvent_eq_none_iff _).mp hm]))
    | some e =>
      by_cases hdue : e.tick ≤ now
      · rw [fireDue_due n hm (by rw [h.time]; exact hdue)] at hf
        obtain ⟨u, hu, hf⟩ := andThen_next hf
        obtain ⟨hrun, hin⟩ := inStep_fireEvent hrun h (minEvent_mem hm) hdue hu
        exact ih hrun hin hf
      · rw [fireDue_later n hm (by rw [h.time]; omega)] at hf
        cases hf
        refine schedWf_of_inStep hrun h (.inr fun f hf => ?_)
        exact Nat.lt_of_lt_of_le (Nat.lt_of_not_le hdue) (tick_minEvent_le hm f hf)

/-- Time moved to the earliest event. -/
theorem inStep_atTick {s : State} {e : Event} (h : s.sched.wf s.clk.psctrl = true) (hm : minEvent s.sched.heap = some e) :
    (s.atTick e.tick).sched.InStep s.clk.psctrl e.tick s.sched.heap.length := by
  obtain ⟨hrun, hin⟩ := (Sched.wf_iff _ _).mp h
  refine ⟨rfl, hin.rising, fun f hf => ?_, ?_, hin.cpu, List.countP_le_length⟩
  · obtain ⟨hscale, -, hrest⟩ := hin.events f hf
    exact ⟨hscale, tick_minEvent_le hm f (by simpa [Sched.mem_events, State.atTick, hrun] using hf), hrest⟩
  · simp [State.atTick, hrun]

theorem schedWf_step {s t : State} (h : s.sched.wf s.clk.psctrl = true) (hs : step s = .next t) :
    t.sched.wf t.clk.psctrl = true ∧ s.sched.currentSysTick < t.sched.currentSysTick := by
  obtain ⟨hrun, hin⟩ := (Sched.wf_iff _ _).mp h
  obtain ⟨hu, hf⟩ := live_of_step_next hs
  cases hm : minEvent s.sched.heap with
  | none => rw [step_empty hu hf hm] at hs; cases hs
  | some e =>
    have hstep : step s = fireDue s.sched.heap.length (s.atTick e.tick) := by simp [step, schedulerStep, hu, hf, hm]
    have hat := inStep_atTick h hm
    obtain ⟨hwf, htime⟩ := schedWf_fireDue (s := s.atTick e.tick) hrun hat (hstep.symm.trans hs)
    refine ⟨hwf, ?_⟩
    have hlater := List.countP_eq_zero.mp (Nat.le_zero.mp hin.due) e (minEvent_mem hm)
    rw [htime]
    simpa using hlater

/-! ## `reset()` and the calls between steps (R501, R506, R523) -/

theorem schedWf_resetBlock {n : Nat} {b : BlockDecl} {s t : State} (hr : resetBlock n b s = .ok t)
    (h : s.sched.wf s.clk.psctrl = true) : t.sched.wf t.clk.psctrl = true := by
  unfold resetBlock at hr
  split at hr
  · cases hr; exact h
  · cases hr; exact h
  · cases hr; exact h
  · cases hr; exact h
  · split at hr
    · exact schedWf_of_keeps (fun P K => K.hookReply hr) h
    · cases hr; exact h

theorem schedWf_resetBlocks {bs : List BlockDecl} {n : Nat} {s t : State} (hr : resetBlocks bs n s = .ok t)
    (h : s.sched.wf s.clk.psctrl = true) : t.sched.wf t.clk.psctrl = true := by
  induction bs generalizing n s with
  | nil => cases hr; exact h
  | cons b bs ih =>
    obtain ⟨u, hu, hr⟩ := bind_ok hr
    exact ih hr (schedWf_resetBlock hu h)

/-- The CPU event scheduled in an empty heap puts the scheduler in order. -/
theorem schedWf_schedule_cpuStep {d : Domain} {n : Nat} {pri : Int} {call : ServiceCall} {hd : Nat} {s t : State}
    (hs : schedule d .cpuStep n pri call s = .ok (hd, t)) (hempty : s.sched.heap = []) : t.sched.wf t.clk.psctrl = true := by
  obtain ⟨hn, hrun, rfl, l, rfl⟩ := schedule_ok hs
  have htick := lt_boundary s.sched.currentSysTick hn (scaleOf_pos s.clk.psctrl d)
  simp [Sched.wf, eventWf, rising, hrun, hempty, htick]

/-- `reset()` schedules the CPU event in an emptied heap, and what the blocks then schedule comes on top. -/
theorem schedWf_hostReset {s t : State} (hr : hostReset s = .ok t) : t.sched.wf t.clk.psctrl = true := by
  obtain ⟨⟨hd, u⟩, hcpu, hr⟩ := bind_ok (f := _) hr
  obtain ⟨w, hblocks, hr⟩ := bind_ok (f := _) hr
  cases hr
  have hwf : w.sched.wf w.clk.psctrl = true := schedWf_resetBlocks hblocks (schedWf_schedule_cpuStep hcpu rfl)
  exact hwf

/-- A hook the host has called was that of some block. -/
theorem hostHooked_bind {α : Type} {p : Params} {n : Nat} {c : BlockDecl → Prop} [DecidablePred c] {f : BlockDecl → α}
    {x : α} (h : ((hostHooked p n).bind fun b => if c b then some (f b) else none) = some x) : ∃ b, f b = x := by
  obtain ⟨b, -, hb⟩ := Option.bind_eq_some_iff.mp h
  split at hb
  · exact ⟨b, Option.some_inj.mp hb⟩
  · cases hb

/-- Settles O57: the order within a step goes through every event fired, and every call keeps it. -/
theorem stepKeepsScheduler : Obligations.StepKeepsScheduler := by
  unfold Obligations.StepKeepsScheduler
  refine fun s t => ⟨fun h hs => schedWf_step h hs, fun _ => schedWf_hostReset, fun h hcall => ?_⟩
  obtain ⟨hd, hc⟩ | ⟨d, tag, n, pri, hd, hc⟩ | ⟨k, a, v, hc⟩ | ⟨k, a, v, hc⟩ | ⟨k, iv, hc⟩ | ⟨iv, level, rfl⟩ | ⟨v, rfl⟩ |
    ⟨image, rfl⟩ := hcall
  · exact schedWf_of_keeps (fun P K => K.unschedule _ _ _ hc) h
  · exact schedWf_of_keeps (fun P K => K.schedule _ _ _ _ _ _ _ _ hc) h
  · obtain ⟨b, hb⟩ := hostHooked_bind hc
    exact schedWf_of_keeps (fun P K => K.blockGetIo hb) h
  · obtain ⟨b, hb⟩ := hostHooked_bind hc
    exact schedWf_of_keeps (fun P K => K.blockSetIo hb) h
  · obtain ⟨b, hb⟩ := hostHooked_bind hc
    exact schedWf_of_keeps (fun P K => K.blockExecuteIv hb) h
  · exact schedWf_of_keeps (fun P K => K.ivLevel _ _ _) h
  · unfold setPcHost
    split <;> exact h
  · unfold loadFlashImage
    split <;> exact h

/-! ## The scheduler's calls (R455, R464, R465, R467, R468) -/

theorem schedule_zero (d : Domain) (cb : Callback) (pri : Int) (call : ServiceCall) (s : State) :
    schedule d cb 0 pri call s = .error (raise (.scheduleZeroTicks d pri) s) := rfl

theorem schedule_running {n : Nat} (d : Domain) (cb : Callback) (pri : Int) (call : ServiceCall) {s : State} (hn : n ≠ 0)
    (hrun : s.sched.running ≠ none) : schedule d cb n pri call s = .error (raise (.callbackHeapMutation call) s) := by
  rw [schedule, if_neg hn, if_pos (Option.isSome_iff_ne_none.mpr hrun)]

/-- A `schedule` that is not refused. -/
theorem schedule_idle {n : Nat} (d : Domain) (cb : Callback) (pri : Int) (call : ServiceCall) {s : State} (hn : n ≠ 0)
    (hrun : s.sched.running = none) : schedule d cb n pri call s = .ok (s.sched.nextHandle, { s with
      log := if d = .asy then .asyDomain :: s.log else s.log
      sched := { s.sched with
        heap := s.sched.heap ++ [⟨s.sched.nextHandle, d, cb, pri,
          (s.sched.currentSysTick / scaleOf s.clk.psctrl d + n) * scaleOf s.clk.psctrl d, scaleOf s.clk.psctrl d,
          s.sched.nextSeq⟩]
        nextHandle := s.sched.nextHandle + 1, nextSeq := s.sched.nextSeq + 1 } }) := by
  rw [schedule, if_neg hn, if_neg (by simp [hrun])]
  split <;> rfl

theorem unschedule_running (h : Nat) {s : State} (hrun : s.sched.running ≠ none) :
    unschedule h s = .error (raise (.callbackHeapMutation (.unschedule h)) s) :=
  if_pos (Option.isSome_iff_ne_none.mpr hrun)

theorem named_iff (e : Event) (h : Nat) : e.named h = true ↔ e.callback ≠ .cpuStep ∧ e.handle = h := by
  simp [Event.named]

theorem unschedule_unknown {h : Nat} {s : State} (hrun : s.sched.running = none)
    (hno : ¬ ∃ e ∈ s.sched.heap, e.named h = true) : unschedule h s = .ok (s.record (.unscheduleUnknown h)) := by
  rw [unschedule, if_neg (by simp [hrun]), if_neg (by rwa [List.any_eq_true])]

theorem unschedule_known {h : Nat} {s : State} (hrun : s.sched.running = none)
    (hyes : ∃ e ∈ s.sched.heap, e.named h = true) :
    unschedule h s = .ok (s.setSched { s.sched with heap := s.sched.heap.filter (!·.named h) }) := by
  rw [unschedule, if_neg (by simp [hrun]), if_pos (by rwa [List.any_eq_true])]

/-- The hooks of a block that the host may call are those of an external block of the registry (R523). -/
theorem hostHooked_external {p : Params} {k : Nat} {b : BlockDecl} (hb : p.registry[k]? = some b) (hk : b.kind = .external) :
    hostHooked p k = some b := by
  simp [hostHooked, hb, hk]

theorem hostHooked_none {p : Params} {k : Nat} (h : ∀ b, p.registry[k]? = some b → b.kind ≠ .external) :
    hostHooked p k = none := by
  simp only [hostHooked, Option.filter_eq_none_iff]
  exact fun b hb => by simpa using h b hb

theorem hookReply_one {n : Nat} {b : BlockDecl} {r : HookReply} {d : Domain} {tag k : Nat} {pri : Int} {s : State}
    (hb : b.callsCore = true) (hr : r.calls = [.schedule d tag k pri]) : hookReply n b r s =
      (schedule d (.client n tag) k pri (.schedule d tag k pri) (s.setExt n r.data)).map Prod.snd := by
  rw [hookReply, if_pos hb, hr]
  show ((schedule ..).map Prod.snd).bind _ = _
  cases schedule d (.client n tag) k pri (.schedule d tag k pri) (s.setExt n r.data) <;> rfl

/-- Settles O49: each call is read off its definition, refusals first. -/
theorem schedulingCalls : Obligations.SchedulingCalls := by
  unfold Obligations.SchedulingCalls
  intro d cb n pri h call s
  refine ⟨?_, fun hn hrun => ?_, fun hn hrun hwf => ?_, unschedule_running h, fun hrun hno => ?_, fun hrun hyes => ?_,
    fun tag => rfl, fun k b a x hb hk => ?_, fun k a x hk => ?_, fun k b r tag hb hr => hookReply_one hb hr⟩
  · rintro rfl
    exact schedule_zero d cb pri call s
  · exact schedule_running d cb pri call (Nat.ne_of_gt hn) hrun
  · have hscale := scaleOf_pos s.clk.psctrl d
    obtain ⟨-, hin⟩ := (Sched.wf_iff _ _).mp hwf
    have hok := schedule_idle d cb pri call (Nat.ne_of_gt hn) hrun
    refine ⟨⟨s.sched.nextHandle, d, cb, pri, _, _, s.sched.nextSeq⟩, _, hok, rfl, rfl, rfl, rfl, rfl, rfl, rfl,
      Nat.mul_mod_left _ _, Nat.mul_div_cancel _ hscale, lt_boundary _ (Nat.ne_of_gt hn) hscale, fun g hg => ?_, rfl, rfl⟩
    obtain ⟨-, -, hhandle, hseq⟩ := hin.events g (Sched.mem_events.mpr (.inl hg))
    exact ⟨hhandle, hseq⟩
  · refine unschedule_unknown hrun fun ⟨e, he, hnamed⟩ => ?_
    obtain ⟨hcb, hhandle⟩ := (named_iff e h).mp hnamed
    exact (hno e he).elim hcb (· hhandle)
  · obtain ⟨e, he, hcb⟩ := hyes
    refine ⟨_, unschedule_known hrun ⟨e, he, (named_iff e h).mpr hcb⟩, rfl, fun f => ?_⟩
    have hkeep : (!f.named h) = true ↔ f.callback = .cpuStep ∨ f.handle ≠ h := by
      rw [Bool.not_eq_true', ← Bool.not_eq_true, named_iff]
      tauto
    rw [List.mem_filter, hkeep]
  · have hhook := hostHooked_external hb hk
    refine ⟨fun ha => ?_, fun ha => ?_⟩
    · simp [hostGetIo, hostSetIo, hhook, ha, blockGetIo, blockSetIo, hk]
    · simp [hostExecuteIv, hhook, ha, blockExecuteIv, hk]
  · have hhook := hostHooked_none hk
    simp [hostGetIo, hostSetIo, hostExecuteIv, hhook]

end Sys2Proof.Machine
end

section
/-! PROOFS. The state after reset (70_reset_and_hazards.md R501 to R508). -/

namespace Sys2Proof.Machine

open Sys2Proof

/-- Settles O53: the reset state is closed, so its invariants and its construction are computed. -/
theorem resetInvariant : Obligations.ResetInvariant := by
  unfold Obligations.ResetInvariant
  refine ⟨by decide, rfl, rfl, rfl, fun j => ?_, rfl⟩
  simp [State.reg, State.reset, State.blank]

end Sys2Proof.Machine
end
